-- ==== Sys2Proof/Word.lean ====
section
/-!
DEFINITION. The word types of the AD Manchester decoder core: what the spec treats as bits, at the widths it fixes
(00_scope.md R10, R11; 30_encoding.md R71). Bit 0 is the least significant bit of every one of them (R12).
-/

namespace Sys2Proof

/-- One byte of the frame buffer (10_state.md R31). -/
abbrev Byte := BitVec 8

/-- A signed 16-bit sample as its two's-complement pattern (R10, R26); `BitVec.toInt` is the spec's `s16`. -/
abbrev Sample := BitVec 16

/-- A 64-bit counter, timestamp or accumulator (R11, R27, R28, R29). -/
abbrev Word64 := BitVec 64

/-- The bit pattern of an IEEE 754 binary64 value (R11, R14). -/
abbrev Binary64 := BitVec 64

/-- A command beat: `op` in bits 65..64, `payload` in bits 63..0 (R71). -/
abbrev Beat := BitVec 66

/-- The 40-bit synchronization tag (R9, R10). -/
abbrev Tag := BitVec 40

/-- A packed response beat, as it stands on `o_resp` (30_encoding.md R70, R80). -/
abbrev RespBeat := BitVec 413

/-- The number of bytes the frame buffer holds: the largest frame, `L = 15` (R10 `MAX_FRAME`, R31). -/
abbrev maxFrame : Nat := 23

/-- The frame buffer `buf[0..22]` (R31). -/
abbrev FrameBuffer := Vector Byte maxFrame

end Sys2Proof
end

