-- ==== Sys2Proof/Syntax.lean ====
section
/-!
DEFINITION. The commands: one constructor for each row of spec/opcode_table.json (30_encoding.md R72 to R74). Every bit
of a beat's payload is an operand here, the bits that have no effect too, so that no beat is read as another.
-/

namespace Sys2Proof

/-- The four commands a beat can spell; RSV2 and RSV3 are the reserved codes. -/
inductive Instr where
  /-- SMP: one audio sample. `ignored` is `payload[63:16]`, which has no effect (R72, U5). -/
  | smp (x : Sample) (ignored : BitVec 48)
  /-- BLK: the start of a sample block, with its opaque start timestamp (R73). -/
  | blk (t : Word64)
  /-- The reserved code `op = 10` with its payload, which has no effect (R74, U6). -/
  | rsv2 (payload : Word64)
  /-- The reserved code `op = 11` with its payload, which has no effect (R74, U6). -/
  | rsv3 (payload : Word64)
  deriving DecidableEq, Repr

end Sys2Proof
end

