-- ==== Sys2Proof/Decode.lean ====
section
/-!
DEFINITION. The decoder of command beats and, after it, the encoder, both from 30_encoding.md R71 to R75. Every
66-bit beat spells exactly one constructor, so `decode` refuses none; a number too wide for the command port is
refused by name in `decodeNumber`.
-/

namespace Sys2Proof

/-- `op = i_cmd[65:64]` (R71). -/
def beatOp (b : Beat) : BitVec 2 := b.extractLsb 65 64

/-- `payload = i_cmd[63:0]` (R71). -/
def beatPayload (b : Beat) : Word64 := b.extractLsb 63 0

/-- The sample of an SMP payload, `payload[15:0]` (R72, R75). -/
def payloadSample (v : Word64) : Sample := v.extractLsb 15 0

/-- The bits of an SMP payload that have no effect, `payload[63:16]` (R72, U5). -/
def payloadIgnored (v : Word64) : BitVec 48 := v.extractLsb 63 16

/-- The command a beat spells (R72, R73, R74). -/
def decode (b : Beat) : Instr :=
  if beatOp b = 0b00#2 then .smp (payloadSample (beatPayload b)) (payloadIgnored (beatPayload b))
  else if beatOp b = 0b01#2 then .blk (beatPayload b)
  else if beatOp b = 0b10#2 then .rsv2 (beatPayload b)
  else .rsv3 (beatPayload b)

/-- Why a number spells no command. -/
inductive DecodeError where
  /-- It has a bit above bit 65, and the command port is 66 bits wide (R70, R71). -/
  | widerThanABeat
  deriving DecidableEq, Repr

/-- The command that a number on the command port spells. -/
def decodeNumber (w : Nat) : Except DecodeError Instr :=
  if w < 2 ^ 66 then .ok (decode (BitVec.ofNat 66 w)) else .error .widerThanABeat

/-- The command read from the low `nbits` bits of `w`, every bit above them 0. -/
def decodeTableWord (nbits w : Nat) : Option Instr :=
  match decodeNumber (w % 2 ^ nbits) with
  | .ok i => some i
  | .error _ => none

/-- The beat whose bits are the low `nbits` bits of `w`, every bit above them 0. -/
def wordBeat (nbits w : Nat) : Beat := BitVec.ofNat 66 (w % 2 ^ nbits)

/-- The `op` field of a command (R72, R73, R74). -/
def Instr.op : Instr → BitVec 2
  | .smp _ _ => 0b00#2
  | .blk _ => 0b01#2
  | .rsv2 _ => 0b10#2
  | .rsv3 _ => 0b11#2

/-- The payload of a command (R72, R73, R74). -/
def Instr.payload : Instr → Word64
  | .smp x ignored => (ignored ++ x : BitVec (48 + 16))
  | .blk t => t
  | .rsv2 v => v
  | .rsv3 v => v

/-- The beat that spells a command (R71). -/
def encode (i : Instr) : Beat :=
  (i.op ++ i.payload : BitVec (2 + 64))

end Sys2Proof
end

