-- ==== Sys2Proof/Config.lean ====
section
/-!
DEFINITION. What a build of the block fixes (the parameters of 00_scope.md R5 to R9), and the free values: constants
with no body, for what the spec leaves open. Nothing in Lean can evaluate a free value, so a claim that is proved
holds whatever it is.
-/

namespace Sys2Proof

/-- The build-time parameters (R5 to R9). They are configuration, not state: no command reads or writes them (R20). -/
structure Params where
  /-- `FS`, the sample rate in samples per second (R5). -/
  fs : Nat
  /-- `DATA_RATE`, the bit rate of the embedded channel in bits per second (R6). -/
  dataRate : Nat
  /-- `EPS`, the tolerance window of every comparison "≈", in samples (R7). -/
  eps : Binary64
  /-- `DAMP`, the damping constant of the period estimator (R8). -/
  damp : Binary64
  /-- `TAG`, the 40-bit synchronization tag, an open parameter (R9, D37, U1). -/
  tag : Tag
  deriving DecidableEq, Repr

/-- The four operations of binary64 whose result can be a NaN (R14). -/
inductive FpOp where
  | add
  | sub
  | mul
  | div
  deriving DecidableEq, Repr

namespace Config

/-- FREE VALUE: the synchronization tag. The source never gives it, and a model must not hard-code one (R9, D37, U1).
Notes, entry 2. -/
opaque tag : Tag

/-- FREE VALUE: the sign and the payload of the NaN that an operation gives on these operands; R14 names the IEEE 754
operations and states neither. Notes, entry 3. -/
opaque nanPattern : FpOp → Binary64 → Binary64 → Binary64

/-- FREE VALUE: the frame buffer after an append at a cursor beyond its last byte, which R50 says cannot happen and to
which it gives no effect. Notes, entry 4. -/
opaque overrunBuffer : FrameBuffer → BitVec 5 → Byte → FrameBuffer

/-- FREE VALUE: what a read of a frame buffer byte that does not exist (index 23 and above) gives; no rule of the spec
reaches one. Notes, entry 4. -/
opaque absentByte : FrameBuffer → Nat → Byte

/-- The default parameters: `FS = 48000` (R5), `DATA_RATE = 1280` (R6), `EPS = 5.0` (R7), `DAMP` the binary64 value
nearest 0.1 (R8); `TAG` has no default (R9). -/
def standard : Params where
  fs := 48000
  dataRate := 1280
  eps := 0x4014000000000000
  damp := 0x3FB999999999999A
  tag := Config.tag

end Config

end Sys2Proof
end

