-- ==== Sys2Proof/Machine/Binary64.lean ====
section
/-!
DEFINITION. IEEE 754 binary64 with round-to-nearest-ties-to-even, each operation rounded once and none fused
(00_scope.md R14, D8). A finite value is read as an exact integer number of units of 2^-1074 (the smallest subnormal),
the operation is done exactly on integers, and `roundRatio` is the one place that rounds.
-/

namespace Sys2Proof.Fp

/-- What a binary64 pattern stands for. -/
inductive Value where
  /-- Not a number. -/
  | nan
  /-- An infinity and its sign (`true` is negative). -/
  | inf (neg : Bool)
  /-- The sign and the magnitude in units of 2^-1074; a zero keeps its sign. -/
  | fin (neg : Bool) (mag : Nat)
  deriving DecidableEq, Repr

/-- How many units of 2^-1074 make 1. -/
@[irreducible] def one1074 : Nat := 2 ^ 1074

/-- Where an infinity lies on the scale of units: beyond every finite magnitude. -/
@[irreducible] def infUnits : Nat := 2 ^ 2098

/-- The pattern of +infinity without its sign bit: biased exponent 2047, fraction 0. -/
def infBits : Nat := 2047 * 2 ^ 52

/-- The magnitude in units of 2^-1074 of a finite pattern without its sign bit. -/
def magnitude (bits : Nat) : Nat :=
  if bits < 2 ^ 52 then bits
  else (2 ^ 52 + bits % 2 ^ 52) * 2 ^ (bits / 2 ^ 52 - 1)

/-- What a pattern stands for. -/
def unpack (a : Binary64) : Value :=
  let bits := a.toNat % 2 ^ 63
  if bits < infBits then .fin a.msb (magnitude bits)
  else if bits = infBits then .inf a.msb
  else .nan

/-- The pattern, without sign, nearest to `num / den` units of 2^-1074, ties to even, infinity on overflow (R14).
The kept part has 53 bits, or fewer where the value is subnormal. -/
@[irreducible] def roundRatio (num den : Nat) : Nat :=
  let k := Nat.log2 (num / den) - 52
  let scaled := den * 2 ^ k
  let q := num / scaled
  let r := num % scaled
  let rounded := if scaled < 2 * r ∨ (2 * r = scaled ∧ q % 2 = 1) then q + 1 else q
  min (k * 2 ^ 52 + rounded) infBits

/-- A pattern from its sign and the rest of its bits. -/
def signed (neg : Bool) (bits : Nat) : Binary64 :=
  BitVec.ofNat 64 (bits + if neg then 2 ^ 63 else 0)

/-- The rounded pattern of an exact number of units of 2^-1074 that is not zero. -/
def ofUnits (v : Int) : Binary64 :=
  signed (decide (v < 0)) (roundRatio v.natAbs 1)

/-- The exact value of a finite number in units of 2^-1074. -/
def units (neg : Bool) (mag : Nat) : Int :=
  if neg then -(mag : Int) else mag

/-- A quiet NaN; its sign and payload are free (notes, entry 3). -/
def quietNan (op : FpOp) (a b : Binary64) : Binary64 :=
  Config.nanPattern op a b ||| 0x7FF8000000000000

/-- The same value with the other sign. -/
def Value.negate : Value → Value
  | .nan => .nan
  | .inf n => .inf (!n)
  | .fin n m => .fin (!n) m

/-- The sum of two values; `none` where it is a NaN. An exact zero sum is +0 unless both operands are negative zeros. -/
def addValue : Value → Value → Option Binary64
  | .nan, _ => none
  | _, .nan => none
  | .inf n, .inf m => if n = m then some (signed n infBits) else none
  | .inf n, .fin _ _ => some (signed n infBits)
  | .fin _ _, .inf m => some (signed m infBits)
  | .fin n a, .fin m b =>
    let v := units n a + units m b
    if v = 0 then some (signed (n && m) 0) else some (ofUnits v)

/-- The product of two values; `none` where it is a NaN. -/
def mulValue : Value → Value → Option Binary64
  | .nan, _ => none
  | _, .nan => none
  | .inf n, .inf m => some (signed (n ^^ m) infBits)
  | .inf n, .fin m b => if b = 0 then none else some (signed (n ^^ m) infBits)
  | .fin n a, .inf m => if a = 0 then none else some (signed (n ^^ m) infBits)
  | .fin n a, .fin m b => some (signed (n ^^ m) (roundRatio (a * b) one1074))

/-- The quotient of two values; `none` where it is a NaN. -/
def divValue : Value → Value → Option Binary64
  | .nan, _ => none
  | _, .nan => none
  | .inf _, .inf _ => none
  | .inf n, .fin m _ => some (signed (n ^^ m) infBits)
  | .fin n _, .inf m => some (signed (n ^^ m) 0)
  | .fin n a, .fin m b =>
    if b = 0 then (if a = 0 then none else some (signed (n ^^ m) infBits))
    else some (signed (n ^^ m) (roundRatio (a * one1074) b))

/-- `a +. b` (R14). -/
@[irreducible] def add (a b : Binary64) : Binary64 :=
  (addValue (unpack a) (unpack b)).getD (quietNan .add a b)

/-- `a -. b` (R14): the sum with the other sign of `b`. -/
@[irreducible] def sub (a b : Binary64) : Binary64 :=
  (addValue (unpack a) (unpack b).negate).getD (quietNan .sub a b)

/-- `a *. b` (R14). -/
@[irreducible] def mul (a b : Binary64) : Binary64 :=
  (mulValue (unpack a) (unpack b)).getD (quietNan .mul a b)

/-- `a /. b` (R14). -/
@[irreducible] def div (a b : Binary64) : Binary64 :=
  (divValue (unpack a) (unpack b)).getD (quietNan .div a b)

/-- `fabs(a)` clears the sign bit (R14). -/
def fabs (a : Binary64) : Binary64 :=
  a &&& 0x7FFFFFFFFFFFFFFF

/-- `f64(n)`: an integer converted with round-to-nearest-ties-to-even (R14). -/
@[irreducible] def ofInt (n : Int) : Binary64 :=
  signed (decide (n < 0)) (roundRatio (n.natAbs * one1074) 1)

/-- The order of values that are no NaN, on one integer scale: an infinity lies beyond every finite magnitude, and
both zeros are 0. `none` for a NaN. -/
def Value.key : Value → Option Int
  | .nan => none
  | .inf n => some (units n infUnits)
  | .fin n m => some (units n m)

/-- `a <=. b`, false when an operand is a NaN (R14). -/
def le (a b : Binary64) : Bool :=
  match (unpack a).key, (unpack b).key with
  | some x, some y => decide (x ≤ y)
  | _, _ => false

/-- `a >=. b`, false when an operand is a NaN (R14). -/
def ge (a b : Binary64) : Bool :=
  le b a

/-- `a` is below `b`, false when an operand is a NaN. No rule computes it; the invariant `d > 0` (10_state.md R34) is
written with it. -/
def lt (a b : Binary64) : Bool :=
  match (unpack a).key, (unpack b).key with
  | some x, some y => decide (x < y)
  | _, _ => false

/-- Neither an infinity nor a NaN. -/
def isFinite (a : Binary64) : Bool :=
  match unpack a with
  | .fin _ _ => true
  | _ => false

/-- `0.0`. -/
def zero : Binary64 := 0x0000000000000000

/-- `1.0`. -/
def one : Binary64 := 0x3FF0000000000000

/-- `2.0`. -/
def two : Binary64 := 0x4000000000000000

end Sys2Proof.Fp
end

