-- ==== Sys2Proof/Machine/Build.lean ====
section
/-!
DEFINITION. A build of the block: a parameter record that meets the constraints of 00_scope.md R5 to R8 (D31). A
record that breaks them is no legal build, and none is constructed from it (93_implementation_defined.md U13).
-/

namespace Sys2Proof

/-- The constraints on the parameters (R5 to R8, D31): `FS ≥ 1`, `DATA_RATE ≥ 1`, `EPS` finite and `EPS ≥ 0`,
`0 ≤ DAMP ≤ 1`. Every tag is allowed (R9). -/
def Params.legal (q : Params) : Bool :=
  decide (1 ≤ q.fs) && decide (1 ≤ q.dataRate) && Fp.isFinite q.eps && Fp.le Fp.zero q.eps
    && Fp.le Fp.zero q.damp && Fp.le q.damp Fp.one

/-- A legal build. -/
structure Build where
  /-- Its parameters. -/
  params : Params
  /-- They meet the constraints. -/
  legal : params.legal = true

namespace Machine

/-- The build of a parameter record, refused where the record is not legal (U13). -/
def buildOf (q : Params) : Option Build :=
  if h : q.legal = true then some ⟨q, h⟩ else none

/-- The build that the machine of the fixed names runs: the defaults of R5 to R8 with the open tag (notes, entry 1).
Every operation below takes the build as an argument, so what is stated for every `Build` is stated for all. -/
def standardBuild : Build :=
  ⟨Config.standard, by decide +kernel⟩

/-- `f64(FS) /. f64(DATA_RATE)`, the nominal bit period `d0` (R6, R39, 42_bit_clock_sync.md R133). -/
def nominalPeriod (p : Build) : Binary64 :=
  Fp.div (Fp.ofInt p.params.fs) (Fp.ofInt p.params.dataRate)

end Machine

end Sys2Proof
end

