-- ==== Sys2Proof/Machine/State.lean ====
section
/-!
DEFINITION. The state of the block: the record of 10_state.md R23 to R33, field by field, and with it the two ends of the
host interface (30_encoding.md R70): what the host has put on the input, and the response on the output.
-/

namespace Sys2Proof.Machine

/-- The synchronizer's state (R23). -/
inductive Phase where
  | unsynchronised
  | firstTransition
  | synchronised
  deriving DecidableEq, Repr

/-- The framer's state (R30). -/
inductive FramePhase where
  | awaitTag
  | consumeTail
  deriving DecidableEq, Repr

/-- The synchronizer events, one per step (30_encoding.md R86). -/
inductive SyncEvent where
  /-- No transition, or not an SMP. -/
  | none
  /-- UNSYNCHRONISED to FIRST_TRANSITION. -/
  | seed
  /-- A half-bit transition, ignored. -/
  | half
  /-- FIRST_TRANSITION: the first transition was a half-bit; the prediction is corrected. -/
  | correct
  /-- FIRST_TRANSITION to SYNCHRONISED. -/
  | acquire
  /-- SYNCHRONISED: one bit decoded. -/
  | bit
  /-- SYNCHRONISED to UNSYNCHRONISED, with a discontinuity. -/
  | lost
  /-- FIRST_TRANSITION to UNSYNCHRONISED, without one. -/
  | acqFail
  deriving DecidableEq, Repr

/-- The framer events, one per step (30_encoding.md R87). -/
inductive FramerEvent where
  /-- No decoded bit and no discontinuity. -/
  | none
  /-- AWAIT_TAG: a bit shifted in, no match. -/
  | shift
  /-- AWAIT_TAG: a match with `L ≥ 8`, a frame opened. -/
  | tagOpen
  /-- AWAIT_TAG: a match with `L < 8`, spurious. -/
  | tagReject
  /-- CONSUME_TAIL: a tail bit, the frame not complete. -/
  | tail
  /-- CONSUME_TAIL: the frame complete, residue 0. -/
  | doneOk
  /-- CONSUME_TAIL: the frame complete, residue not 0. -/
  | doneFail
  /-- A discontinuity. -/
  | disc
  deriving DecidableEq, Repr

/-- The fields of a response beat (30_encoding.md R80). -/
structure Response where
  /-- The accepted command's `op`. -/
  op : BitVec 2
  /-- True iff `op` is reserved. -/
  ill : Bool
  /-- The sample's index, or `in_sample_count`. -/
  idx : Word64
  /-- The synchronizer event. -/
  sev : SyncEvent
  /-- True iff the synchronizer event is BIT. -/
  bitValid : Bool
  /-- The decoded bit, where one is valid. -/
  bit : Bool
  /-- True iff a discontinuity was signalled. -/
  disc : Bool
  /-- The framer event. -/
  fev : FramerEvent
  /-- The residue of a completed frame. -/
  crc : BitVec 16
  /-- True iff a descriptor is output. -/
  descValid : Bool
  /-- The descriptor's byte count. -/
  descLen : BitVec 5
  /-- The descriptor's bytes, byte `i` in bits `8i+7 .. 8i` (R82). -/
  descData : BitVec 184
  /-- The block timestamp of the descriptor. -/
  tsBlock : Word64
  /-- The block offset of the descriptor. -/
  tsOff : Word64
  /-- `phase` after the step. -/
  phase : Phase
  /-- `fphase` after the step. -/
  fphase : FramePhase
  deriving DecidableEq, Repr

/-- The all-zero response from which a step starts (R81): every field's code is 0 (R85 to R87). -/
def Response.zero : Response where
  op := 0
  ill := false
  idx := 0
  sev := .none
  bitValid := false
  bit := false
  disc := false
  fev := .none
  crc := 0
  descValid := false
  descLen := 0
  descData := 0
  tsBlock := 0
  tsOff := 0
  phase := .unsynchronised
  fphase := .awaitTag

/-- What a host does to the input side of the block (R70): it offers a command beat, or it asserts `rst`. -/
inductive HostInput where
  /-- A command beat on `i_cmd` with `i_valid = 1`. -/
  | command (beat : Beat)
  /-- `rst = 1` (70_reset_and_hazards.md R240); the directive RESET of R90. -/
  | reset
  deriving DecidableEq, Repr

/-- The whole state: the spec's record, and the model's own fields `pending` and `out` (notes, entries 6 and 7). -/
structure State where
  /-- The synchronizer's state (R23). -/
  phase : Phase
  /-- `duration_estimate`, the estimated bit period in samples (R24). -/
  d : Binary64
  /-- `next_expected_transition_sample`, the prediction of the next bit-centre transition (R25). -/
  next : Binary64
  /-- The amplitude of the previous SMP (R26). -/
  lastSample : Sample
  /-- The global index of the sample being processed (R27). -/
  inSampleCount : Word64
  /-- The start timestamp of the current block (R28). -/
  blockTs : Word64
  /-- The index of the current sample in its block (R28). -/
  blockOffset : Word64
  /-- The accumulator the decoded bits enter at bit 0 (R29). -/
  acc : Word64
  /-- The framer's state (R30). -/
  fphase : FramePhase
  /-- The bytes of the pending frame (R31). -/
  buf : FrameBuffer
  /-- The size of the pending frame, 0 or 16 to 23 (R31). -/
  blen : BitVec 5
  /-- The write cursor of the pending frame (R31). -/
  wcur : BitVec 5
  /-- `remaining_tail_bits` (R32). -/
  rem : BitVec 7
  /-- The frame latch's block timestamp (R33). -/
  frameTsBlock : Word64
  /-- The frame latch's block offset (R33). -/
  frameTsOff : Word64
  /-- THE MODEL'S OWN: what the host has put on the input and the block has not taken, oldest first (R70, R60). -/
  pending : List HostInput
  /-- THE MODEL'S OWN: the output port, `some r` where `o_valid = 1` with `r` on `o_resp` after the last step, `none`
  where `o_valid = 0` (R70, R80). -/
  out : Option Response
  deriving DecidableEq, Repr

/-- The faults of the machine: none. No condition in the block is fatal, and it never traps (60_exceptions.md R210,
R215, D4), so no constructor is declared and no step can answer with a fault. -/
inductive Fault where
  deriving DecidableEq, Repr

/-- Why a step is refused. -/
inductive Refusal where
  /-- An instruction with no meaning yet, by its mnemonic. Raised by no arm of `exec`: all have their meaning. Safe, as
  a refusal stops a run and proves nothing about it. -/
  | notModelled (mnemonic : String)
  deriving DecidableEq, Repr

/-- The state right after reset of a build (R39, R240, R241); the bytes of `buf` are the model's (notes, entry 5). -/
def State.resetFor (p : Build) : State where
  phase := .unsynchronised
  d := nominalPeriod p
  next := Fp.zero
  lastSample := 0
  inSampleCount := 0
  blockTs := 0
  blockOffset := 0
  acc := 0
  fphase := .awaitTag
  buf := Vector.replicate maxFrame 0
  blen := 0
  wcur := 0
  rem := 0
  frameTsBlock := 0
  frameTsOff := 0
  pending := []
  out := none

/-- The state right after reset of the standard build. -/
def State.reset : State := State.resetFor standardBuild

end Sys2Proof.Machine
end

