-- ==== Sys2Proof/Machine/Ops.lean ====
section
/-!
DEFINITION. The shared operations of a step: opening it with the all-zero response, closing it, raising an event, the
frame buffer, and taking the host's next input. A step works on a state together with the response of the command being
processed (00_scope.md R13, `resp.f <- v`).
-/

namespace Sys2Proof.Machine

/-- The state and the response of the command being processed (R13). -/
structure Work where
  /-- The state so far. -/
  st : State
  /-- The response so far. -/
  resp : Response
  deriving DecidableEq, Repr

/-- A step starts from the all-zero response, with the command's `op` and the index (30_encoding.md R81;
40_commands.md R100 to R102). -/
def openStep (op : BitVec 2) (s : State) : Work :=
  { st := s, resp := { Response.zero with op := op, idx := s.inSampleCount } }

/-- A step ends with `phase` and `fphase` on the response, which stands on the output port (R80, R100 to R102). -/
def closeStep (w : Work) : State :=
  { w.st with out := some { w.resp with phase := w.st.phase, fphase := w.st.fphase } }

/-- `raise` for a synchronizer event (60_exceptions.md R210, 30_encoding.md R86): the code and nothing else. The block
has no other form of exception (R215, R216). -/
def raiseSync (e : SyncEvent) (w : Work) : Work :=
  { w with resp := { w.resp with sev := e } }

/-- `raise` for a framer event (R210, 30_encoding.md R87). -/
def raiseFramer (e : FramerEvent) (w : Work) : Work :=
  { w with resp := { w.resp with fev := e } }

/-- `raise ILL` (R210, R211). -/
def raiseIll (w : Work) : Work :=
  { w with resp := { w.resp with ill := true } }

/-- `buf[cur] <- v` (20_memory.md R50). At a cursor beyond the buffer, which R50 says cannot happen, the bytes after it
are free (notes, entry 4). -/
def storeByte (b : FrameBuffer) (cur : BitVec 5) (v : Byte) : FrameBuffer :=
  if h : cur.toNat < maxFrame then b.set cur.toNat v h else Config.overrunBuffer b cur v

/-- `buf[i]`; a byte that does not exist is free (notes, entry 4). -/
def loadByte (b : FrameBuffer) (i : Nat) : Byte :=
  if h : i < maxFrame then b[i] else Config.absentByte b i

/-- `buf[0 .. blen-1]`, the bytes of the pending frame in buffer order (R50). -/
def frameBytes (s : State) : List Byte :=
  (List.range s.blen.toNat).map (loadByte s.buf)

/-- The next thing the host has put on the input, and the state without it: the oldest first, so no command is dropped,
duplicated or reordered (20_memory.md R60). -/
def takeInput (s : State) : Option (HostInput × State) :=
  match s.pending with
  | [] => none
  | i :: rest => some (i, { s with pending := rest })

/-- The state with a command beat put before all that the host has on the input (notes, entry 6). -/
def placeCommand (b : Beat) (s : State) : State :=
  { s with pending := .command b :: s.pending }

/-- A step at which the host offers nothing: the block holds its state (60_exceptions.md R223), and `o_valid` falls,
since a response is valid for one cycle and no copy is kept (30_encoding.md R80, 70_reset_and_hazards.md R252). -/
def idleStep (s : State) : State :=
  { s with out := none }

/-- A step at which the host asserts `rst`: every field takes its reset value, and there is no response
(70_reset_and_hazards.md R240). What the host has yet to offer is the host's, not the block's, and stays. -/
def resetStep (p : Build) (s : State) : State :=
  { State.resetFor p with pending := s.pending }

end Sys2Proof.Machine
end

