-- ==== Sys2Proof/Machine/Operands.lean ====
section
/-!
DEFINITION. What a step computes from its operands before it acts: the sign class of a sample and the transition test
(41_transition_detector.md), and the timing error of a transition (42_bit_clock_sync.md R131).
-/

namespace Sys2Proof.Machine

/-- `neg(x) = x[15]`, so a sample of value 0 is non-negative (R120). -/
def neg (x : Sample) : Bool := x.msb

/-- `Transition(p, x)`: the sign classes of the previous and the current sample differ (R121). -/
def transition (p x : Sample) : Bool := neg p ^^ neg x

/-- The bit that a transition decodes: 1 where its driving sample is negative (R123, R143). -/
def decodedBit (x : Sample) : Bool := neg x

/-- `c = f64(i)`, the sample's index as a binary64 value (R131). -/
def indexValue (i : Word64) : Binary64 := Fp.ofInt i.toNat

/-- `e = c -. next`, the timing error of a transition at index `i` (R131). -/
def timingError (s : State) (i : Word64) : Binary64 := Fp.sub (indexValue i) s.next

/-- `half = d /. 2.0` (R131). -/
def halfPeriod (s : State) : Binary64 := Fp.div s.d Fp.two

end Sys2Proof.Machine
end

