-- ==== Sys2Proof/Machine/Flags.lean ====
section
/-!
DEFINITION. The conditions of a step and the codes of its events. The block has no condition codes or flags
(10_state.md R37); what stands in their place are the tolerance windows that select a synchronizer action
(42_bit_clock_sync.md R132) and the event and phase codes of the response (30_encoding.md R85 to R87).
-/

namespace Sys2Proof.Machine

/-- `MID(e)`: the error is about minus half a period (R132). The window is closed. -/
def midWindow (p : Build) (half e : Binary64) : Bool :=
  Fp.le (Fp.fabs (Fp.add e half)) p.params.eps

/-- `LATE(e)`: the error is about half a period (R132). -/
def lateWindow (p : Build) (half e : Binary64) : Bool :=
  Fp.le (Fp.fabs (Fp.sub e half)) p.params.eps

/-- `CEN(e)`: the error is about 0 (R132). -/
def centreWindow (p : Build) (e : Binary64) : Bool :=
  Fp.le (Fp.fabs e) p.params.eps

/-- `fabs(e) >=. 1.0`: the error is large enough to nudge the period (R141). -/
def nudges (e : Binary64) : Bool :=
  Fp.ge (Fp.fabs e) Fp.one

/-- The `phase` code (R85); the code `11` is never output. -/
def phaseCode : Phase → BitVec 2
  | .unsynchronised => 0b00#2
  | .firstTransition => 0b01#2
  | .synchronised => 0b10#2

/-- The `fphase` code (R85). -/
def framePhaseCode : FramePhase → BitVec 1
  | .awaitTag => 0b0#1
  | .consumeTail => 0b1#1

/-- The `sev` code (R86). -/
def syncEventCode : SyncEvent → BitVec 3
  | .none => 0#3
  | .seed => 1#3
  | .half => 2#3
  | .correct => 3#3
  | .acquire => 4#3
  | .bit => 5#3
  | .lost => 6#3
  | .acqFail => 7#3

/-- The `fev` code (R87). -/
def framerEventCode : FramerEvent → BitVec 3
  | .none => 0#3
  | .shift => 1#3
  | .tagOpen => 2#3
  | .tagReject => 3#3
  | .tail => 4#3
  | .doneOk => 5#3
  | .doneFail => 6#3
  | .disc => 7#3

end Sys2Proof.Machine
end

