-- ==== Sys2Proof/Machine/Crc.lean ====
section
/-!
DEFINITION. The CRC-16-CCITT validator (44_crc.md).
-/

namespace Sys2Proof.Machine

/-- One bit of the CRC register's turn: polynomial 0x1021, most significant bit first (R190). -/
def crcShift (r : BitVec 16) : BitVec 16 :=
  if r.msb then (r <<< 1) ^^^ 0x1021 else r <<< 1

/-- One byte folded into the register and shifted through (R190). -/
def crcByte (r : BitVec 16) (m : Byte) : BitVec 16 :=
  Nat.repeat crcShift 8 (r ^^^ (m.setWidth 16 <<< 8))

/-- `CRC16(bytes)`: initial register 0x1D0F, bytes in order, no final XOR (R190). -/
def crc16 (bytes : List Byte) : BitVec 16 :=
  bytes.foldl crcByte 0x1D0F

/-- A frame is accepted iff its residue is exactly 0 (R191). -/
def crcAccepts (residue : BitVec 16) : Bool :=
  decide (residue = 0)

end Sys2Proof.Machine
end

