-- ==== Sys2Proof/Machine/Port.lean ====
section
/-!
DEFINITION. The output port: a response packed into the 413 bits of `o_resp` (30_encoding.md R70, R80, R82).
-/

namespace Sys2Proof.Machine

/-- `desc_data` of a byte record: byte `i` in bits `8i+7 .. 8i`, unused lanes 0 (R82). -/
def descLanes (bytes : List Byte) : BitVec 184 :=
  bytes.foldr (fun b lanes => (lanes <<< 8) ||| b.setWidth 184) 0

/-- The response beat, its fields from bit 0 upward in the order of R80 (the last one written is `op`, in bits 1..0). -/
def packResponse (r : Response) : RespBeat :=
  (framePhaseCode r.fphase ++ phaseCode r.phase ++ r.tsOff ++ r.tsBlock ++ r.descData ++ r.descLen
    ++ BitVec.ofBool r.descValid ++ r.crc ++ framerEventCode r.fev ++ BitVec.ofBool r.disc ++ BitVec.ofBool r.bit
    ++ BitVec.ofBool r.bitValid ++ syncEventCode r.sev ++ r.idx ++ BitVec.ofBool r.ill ++ r.op :
      BitVec (1 + 2 + 64 + 64 + 184 + 5 + 1 + 16 + 3 + 1 + 1 + 1 + 3 + 64 + 1 + 2))

/-- `o_valid` (R70): high exactly where a response stands on the port. -/
def oValid (s : State) : Bool := s.out.isSome

/-- `o_resp` where `o_valid = 1` (R70). -/
def oResp (s : State) : Option RespBeat := s.out.map packResponse

end Sys2Proof.Machine
end

