-- ==== Sys2Proof/Machine/Framer.lean ====
section
/-!
DEFINITION. The descriptor framer (43_framer.md) and the descriptor output (45_descriptor_output.md): one definition for
each action.
-/

namespace Sys2Proof.Machine

/-- `Accept()`: the whole frame and its latched timestamp pair go out on the response (R200, R201). -/
def accept (w : Work) : Work :=
  raiseFramer .doneOk
    { w with resp := { w.resp with
        descValid := true
        descLen := w.st.blen
        descData := descLanes (frameBytes w.st)
        tsBlock := w.st.frameTsBlock
        tsOff := w.st.frameTsOff } }

/-- The buffer is freed and the framer awaits a tag; the bytes and the accumulator stay (R167, 20_memory.md R51). -/
def freeFrame (w : Work) : Work :=
  { w with st := { w.st with fphase := .awaitTag, blen := 0, wcur := 0 } }

/-- `Complete()`: the residue is reported, the frame accepted or failed, and the buffer freed either way (R167, R191). -/
def complete (w : Work) : Work :=
  let residue := crc16 (frameBytes w.st)
  let w := { w with resp := { w.resp with crc := residue } }
  freeFrame (if crcAccepts residue then accept w else raiseFramer .doneFail w)

/-- The tail step's append: on every eighth bit the low byte of the accumulator (R166). -/
def appendTail (w : Work) : Work :=
  if w.st.rem.toNat % 8 = 0 then
    { w with st := { w.st with
        buf := storeByte w.st.buf w.st.wcur (w.st.acc.extractLsb 7 0)
        wcur := w.st.wcur + 1 } }
  else w

/-- `ConsumeTail()` (R166). -/
def consumeTail (w : Work) : Work :=
  let w := appendTail { w with st := { w.st with rem := w.st.rem - 1 } }
  if w.st.rem = 0 then complete w else raiseFramer .tail w

/-- The length extractor `L = acc[59:56]` (R162). -/
def lengthField (acc : Word64) : BitVec 4 := acc.extractLsb 59 56

/-- The tag window `acc[55:16]` (R161). -/
def tagWindow (acc : Word64) : Tag := acc.extractLsb 55 16

/-- The frame buffer with the eight bytes that frame open writes, `buf[0..7] = acc[63:0]`, most significant byte first
(R164). The bytes from 8 on keep what they hold (U4). -/
def headerBytes (b : FrameBuffer) (acc : Word64) : FrameBuffer :=
  ((((((((b.set 0 (acc.extractLsb 63 56)).set 1 (acc.extractLsb 55 48)).set 2 (acc.extractLsb 47 40)).set 3
    (acc.extractLsb 39 32)).set 4 (acc.extractLsb 31 24)).set 5 (acc.extractLsb 23 16)).set 6
    (acc.extractLsb 15 8)).set 7 (acc.extractLsb 7 0))

/-- TAG_OPEN: a frame is opened, and the timestamp pair of its tag-completing bit is latched (R164). -/
def tagOpen (off : Word64) (w : Work) : Work :=
  let len := (lengthField w.st.acc).toNat
  raiseFramer .tagOpen
    { w with st := { w.st with
        blen := BitVec.ofNat 5 (1 + len + 7)
        buf := headerBytes w.st.buf w.st.acc
        wcur := 8
        rem := BitVec.ofNat 7 ((len - 6 + 7 - 1) * 8)
        frameTsBlock := w.st.blockTs
        frameTsOff := off
        fphase := .consumeTail } }

/-- TAG_REJECT: a match with `L < 8` is spurious; nothing is written beyond the shift (R163). -/
def tagReject (w : Work) : Work := raiseFramer .tagReject w

/-- SHIFT: no match (R165). -/
def shiftOnly (w : Work) : Work := raiseFramer .shift w

/-- `AwaitTag(off)`: the tag test and the length test (R161, R162). -/
def awaitTag (p : Build) (off : Word64) (w : Work) : Work :=
  if tagWindow w.st.acc = p.params.tag then
    if (lengthField w.st.acc).toNat < 8 then tagReject w else tagOpen off w
  else shiftOnly w

/-- The accumulator with one more bit at bit 0 (R160). -/
def shiftIn (acc : Word64) (b : Bool) : Word64 :=
  (acc <<< 1) ||| (BitVec.ofBool b).setWidth 64

/-- `FramerBit(b, off)`: the bit is shifted in, whatever the phase, and takes exactly one action (R160, D15). -/
def framerBit (p : Build) (b : Bool) (off : Word64) (w : Work) : Work :=
  let w := { w with st := { w.st with acc := shiftIn w.st.acc b } }
  match w.st.fphase with
  | .awaitTag => awaitTag p off w
  | .consumeTail => consumeTail w

/-- `Discontinuity()`: the frame in flight is discarded and the framer takes its reset state; the latch and the buffer
bytes stay (R170). -/
def discontinuity (w : Work) : Work :=
  raiseFramer .disc
    { w with st := { w.st with acc := 0, fphase := .awaitTag, blen := 0, wcur := 0, rem := 0 } }

end Sys2Proof.Machine
end

