-- ==== Sys2Proof/Machine/Sync.lean ====
section
/-!
DEFINITION. The bit-clock synchronizer (42_bit_clock_sync.md): one definition for each of its seven actions, and the two
dispatches with their fixed order of tests.
-/

namespace Sys2Proof.Machine

/-- SEED: the first transition seeds the period and the prediction (R133). -/
def seed (p : Build) (i : Word64) (w : Work) : Work :=
  raiseSync .seed
    { w with st := { w.st with
        d := nominalPeriod p
        next := Fp.add (indexValue i) (nominalPeriod p)
        phase := .firstTransition } }

/-- HALF: a half-bit transition is ignored (R135, R140). -/
def halfBit (w : Work) : Work := raiseSync .half w

/-- CORRECT: the first transition was itself a half-bit (R136, D34). -/
def correct (half : Binary64) (w : Work) : Work :=
  raiseSync .correct { w with st := { w.st with next := Fp.sub w.st.next half } }

/-- ACQUIRE: phase acquired; no bit is decoded (R137, D40). -/
def acquire (w : Work) : Work :=
  raiseSync .acquire
    { w with st := { w.st with phase := .synchronised, next := Fp.add w.st.next w.st.d } }

/-- ACQFAIL: acquisition failed; `d` and `next` stay (R138, D39). -/
def acqFail (w : Work) : Work :=
  raiseSync .acqFail { w with st := { w.st with phase := .unsynchronised } }

/-- The period nudge of BIT, two roundings (R141). -/
def nudgedPeriod (p : Build) (d e : Binary64) : Binary64 :=
  if nudges e then Fp.add d (Fp.mul e p.params.damp) else d

/-- BIT: one bit is decoded; the nudge comes before the advance, which uses the new period (R141, D36). -/
def bitCentre (p : Build) (e : Binary64) (off : Word64) (x : Sample) (w : Work) : Work :=
  let d' := nudgedPeriod p w.st.d e
  let w := raiseSync .bit { w with st := { w.st with d := d', next := Fp.add w.st.next d' } }
  framerBit p (decodedBit x) off
    { w with resp := { w.resp with bitValid := true, bit := decodedBit x } }

/-- LOST: sync lost, and a discontinuity for the framer; `d` and `next` stay (R142, D39). -/
def lost (w : Work) : Work :=
  let w := raiseSync .lost { w with st := { w.st with phase := .unsynchronised } }
  discontinuity { w with resp := { w.resp with disc := true } }

/-- The dispatch in FIRST_TRANSITION: MID, then LATE, then CEN (R134). -/
def firstTransitionStep (p : Build) (i : Word64) (w : Work) : Work :=
  let e := timingError w.st i
  let half := halfPeriod w.st
  if midWindow p half e then halfBit w
  else if lateWindow p half e then correct half w
  else if centreWindow p e then acquire w
  else acqFail w

/-- The dispatch in SYNCHRONISED: MID, then CEN; no LATE test is made (R139). -/
def synchronisedStep (p : Build) (i off : Word64) (x : Sample) (w : Work) : Work :=
  let e := timingError w.st i
  if midWindow p (halfPeriod w.st) e then halfBit w
  else if centreWindow p e then bitCentre p e off x w
  else lost w

/-- `SyncStep(i, off, x)`: exactly one action per transition, by `phase` (R130). -/
def syncStep (p : Build) (i off : Word64) (x : Sample) (w : Work) : Work :=
  match w.st.phase with
  | .unsynchronised => seed p i w
  | .firstTransition => firstTransitionStep p i w
  | .synchronised => synchronisedStep p i off x w

end Sys2Proof.Machine
end

