-- ==== Sys2Proof/Machine/Commands.lean ====
section
/-!
DEFINITION. The meanings of the commands (40_commands.md): SMP, BLK and the two reserved codes, each for any build and,
under the name that `exec` calls, for the standard build.
-/

namespace Sys2Proof.Machine

/-- What SMP does to the state and the response once its step is open (R100): the transition test, the synchronizer
where the sign changes, then the history and both counters. -/
def processSample (p : Build) (x : Sample) (w : Work) : Work :=
  let i := w.st.inSampleCount
  let off := w.st.blockOffset
  let w := if transition w.st.lastSample x then syncStep p i off x w else w
  { w with st := { w.st with
      lastSample := x
      inSampleCount := w.st.inSampleCount + 1
      blockOffset := w.st.blockOffset + 1 } }

/-- SMP x (R100). -/
def smpFor (p : Build) (x : Sample) (s : State) : State :=
  closeStep (processSample p x (openStep 0b00#2 s))

/-- BLK t writes the block fields and nothing else of the state (R101, D29). -/
def blkFor (t : Word64) (s : State) : State :=
  let w := openStep 0b01#2 s
  closeStep { w with st := { w.st with blockTs := t, blockOffset := 0 } }

/-- A reserved command: ILL, and no state is written (R102, D4). -/
def reservedFor (op : BitVec 2) (s : State) : State :=
  closeStep (raiseIll (openStep op s))

/-- The meaning of SMP (R100). The ignored payload bits have no effect (R72, U5). -/
def execSmp (x : Sample) (_ignored : BitVec 48) (s : State) : Host.Outcome State Fault Refusal :=
  .next (smpFor standardBuild x s)

/-- The meaning of BLK (R101). -/
def execBlk (t : Word64) (s : State) : Host.Outcome State Fault Refusal :=
  .next (blkFor t s)

/-- The meaning of the reserved code `op = 10` (R102); the payload is ignored. -/
def execRsv2 (_payload : Word64) (s : State) : Host.Outcome State Fault Refusal :=
  .next (reservedFor 0b10#2 s)

/-- The meaning of the reserved code `op = 11` (R102); the payload is ignored. -/
def execRsv3 (_payload : Word64) (s : State) : Host.Outcome State Fault Refusal :=
  .next (reservedFor 0b11#2 s)

/-- A command performed by any build: the state it leaves, with its response on the port. -/
def performFor (p : Build) : Instr → State → State
  | .smp x _, s => smpFor p x s
  | .blk t, s => blkFor t s
  | .rsv2 _, s => reservedFor 0b10#2 s
  | .rsv3 _, s => reservedFor 0b11#2 s

/-- What one host input does in any build, the input already taken: a command is decoded and performed, `rst` resets. -/
def inputStepFor (p : Build) : HostInput → State → State
  | .command beat, s => performFor p (decode beat) s
  | .reset, s => resetStep p s

/-- One step of any build: the next host input, or an idle step where there is none. -/
def stepFor (p : Build) (s : State) : State :=
  match takeInput s with
  | none => idleStep s
  | some (input, s') => inputStepFor p input s'

end Sys2Proof.Machine
end

