-- ==== Sys2Proof/Machine/Dispatch.lean ====
section
/-!
DEFINITION. The dispatch: one arm per constructor of Instr.
-/

namespace Sys2Proof.Machine

def exec (i : Instr) (s : State) : Host.Outcome State Fault Refusal :=
  match i with
  | .smp x ignored => Sys2Proof.Machine.execSmp x ignored s
  | .blk t => Sys2Proof.Machine.execBlk t s
  | .rsv2 payload => Sys2Proof.Machine.execRsv2 payload s
  | .rsv3 payload => Sys2Proof.Machine.execRsv3 payload s

end Sys2Proof.Machine
end

