-- ==== Sys2Proof/Machine/Step.lean ====
section
/-!
DEFINITION. One step of the machine: the processing of the host's next input (00_scope.md R15, 20_memory.md R60). A
command beat is decoded and performed; `rst` resets; with nothing offered the block holds its state. The machine fetches
nothing (R58): its program is the stream of commands (R2).
-/

namespace Sys2Proof.Machine

/-- One step. -/
def step (s : State) : Host.Outcome State Fault Refusal :=
  match takeInput s with
  | none => .next (idleStep s)
  | some (.command beat, s') => exec (decode beat) s'
  | some (.reset, s') => .next (resetStep standardBuild s')

/-- The state with one more command at the head of the host's input, so that the very next step performs exactly it. -/
def State.withFetchWord (s : State) (nbits w : Nat) : State :=
  placeCommand (wordBeat nbits w) s

end Sys2Proof.Machine
end

