-- ==== Sys2Proof/Machine/Stream.lean ====
section
/-!
DEFINITION. Command streams as a host writes them: the beats of a command, the host's conversion of PCM bytes
(20_memory.md R53), block processing (40_commands.md R104) and the pseudo-instructions of 30_encoding.md R91 to R93.
-/

namespace Sys2Proof.Machine

/-- A command offered on the input port. -/
def offer (i : Instr) : HostInput := .command (encode i)

/-- The SMP a host writes for a sample, its ignored bits zero (R72, R90). -/
def smpOf (x : Sample) : Instr := .smp x 0

/-- `RUN x, n`: `n` consecutive `SMP x` (R91). -/
def runSamples (x : Sample) (n : Nat) : List Sample := List.replicate n x

/-- Sample `k` of a PCM byte buffer is `s16({b[2k+1], b[2k]})`, the low byte first (R53). That an odd byte at the end
makes no sample is the model's choice (notes, entry 27, DESIGN CHOICE). -/
def pcm16le : List Byte → List Sample
  | lo :: hi :: rest => (hi ++ lo : BitVec (8 + 8)) :: pcm16le rest
  | _ => []

/-- `h(k) = floor(2 * k * DATA_RATE / FS)`, the half-bit index of sample `k` (R93). -/
def manchHalf (p : Build) (k : Nat) : Nat := 2 * k * p.params.dataRate / p.params.fs

/-- `v(k)`: the first half of a `1` bit is `+a` and the second `-a`; a `0` bit is the other way round (R93). -/
def manchSample (p : Build) (a : Nat) (bits : List Bool) (k : Nat) : Sample :=
  let h := manchHalf p k
  let first := decide (h % 2 = 0)
  if bits.getD (h / 2) false = first then BitVec.ofInt 16 a else BitVec.ofInt 16 (-a)

/-- `N = ceil(n * FS / DATA_RATE)`, the number of samples of `n` bits (R93). -/
def manchLength (p : Build) (n : Nat) : Nat :=
  (n * p.params.fs + p.params.dataRate - 1) / p.params.dataRate

/-- `MANCH a, "s"`: the synthetic Manchester modulator, in exact integer arithmetic (R93). -/
def manch (p : Build) (a : Nat) (bits : List Bool) : List Sample :=
  (List.range (manchLength p bits.length)).map (manchSample p a bits)

/-- A block with start timestamp `t` and its samples, as the command sequence that processes it (R104). -/
def blockCommands (t : Word64) (samples : List Sample) : List Instr :=
  .blk t :: samples.map smpOf

/-- The state after a list of commands, each performed in order by one build. -/
def performAll (p : Build) (is : List Instr) (s : State) : State :=
  is.foldl (fun s i => performFor p i s) s

/-- The responses of a list of commands, in order: one for each (R80). -/
def responsesOf (p : Build) : List Instr → State → List (Option Response)
  | [], _ => []
  | i :: is, s => (performFor p i s).out :: responsesOf p is (performFor p i s)

/-- `FramerBit` over a list of decoded bits, all at one block offset: the framer alone, as the vectors of
95_test_vectors.md section 2.5 drive it. -/
def feedBits (p : Build) (off : Word64) (bits : List Bool) (w : Work) : Work :=
  bits.foldl (fun w b => framerBit p b off w) w

/-- The bits of a byte, most significant first (R54). -/
def byteBits (b : Byte) : List Bool := (List.range 8).map (fun k => b.getMsbD k)

/-- The bits of a byte record in the order in which they are decoded (R54). -/
def recordBits (bytes : List Byte) : List Bool := bytes.flatMap byteBits

end Sys2Proof.Machine
end

