-- ==== Sys2Proof/Machine/Assembler.lean ====
section
/-!
DEFINITION. The assembler syntax of 30_encoding.md R90 to R93: a line of text to what the host does with it. One command
per line, `;` starts a comment, numbers are decimal with an optional sign or hex with a `0x` prefix.
-/

namespace Sys2Proof.Machine

/-- Why a line spells nothing. -/
inductive AsmError where
  /-- The first word is no command, pseudo-instruction or directive. -/
  | unknownMnemonic
  /-- There are too few operands, or too many. -/
  | operandCount
  /-- An operand is no number, or no quoted string of `0` and `1`. -/
  | badOperand
  /-- An operand is outside the range that R90 to R93 give it, or that the model chose for it (notes, entry 27). -/
  | outOfRange
  deriving DecidableEq, Repr

/-- A number as it is written: hex literals have a range of their own in R90. -/
inductive AsmNumber where
  /-- Decimal, with its sign. -/
  | dec (n : Int)
  /-- Hex, with the `0x` prefix. -/
  | hex (n : Nat)
  deriving DecidableEq, Repr

/-- A space or a tab. -/
def isBlankChar (c : Char) : Bool := c = ' ' || c = '\t'

/-- The text before a comment. -/
def stripComment (line : List Char) : List Char := line.takeWhile (· ≠ ';')

/-- The text without blanks at its ends. -/
def trimBlanks (t : List Char) : List Char :=
  ((t.dropWhile isBlankChar).reverse.dropWhile isBlankChar).reverse

/-- The operands: the text cut at its commas, each without blanks at its ends; none where there is no text. -/
def splitOperands (t : List Char) : List (List Char) :=
  if trimBlanks t = [] then []
  else (t.foldr (fun c parts => match parts with
    | [] => [[c]]
    | p :: rest => if c = ',' then [] :: p :: rest else (c :: p) :: rest) [[]]).map trimBlanks

/-- The value of a decimal digit. -/
def decDigit (c : Char) : Option Nat :=
  if '0' ≤ c ∧ c ≤ '9' then some (c.toNat - '0'.toNat) else none

/-- The value of a hex digit, in either case. -/
def hexDigit (c : Char) : Option Nat :=
  if 'a' ≤ c ∧ c ≤ 'f' then some (c.toNat - 'a'.toNat + 10)
  else if 'A' ≤ c ∧ c ≤ 'F' then some (c.toNat - 'A'.toNat + 10)
  else decDigit c

/-- The number its digits spell in a base; none where there is no digit or a character is none. -/
def digitsValue (digit : Char → Option Nat) (base : Nat) : List Char → Option Nat
  | [] => none
  | cs => cs.foldl (fun acc c => match acc, digit c with
      | some n, some d => some (base * n + d)
      | _, _ => none) (some 0)

/-- A number of R90. -/
def readNumber : List Char → Option AsmNumber
  | '0' :: 'x' :: cs => (digitsValue hexDigit 16 cs).map .hex
  | '-' :: cs => (digitsValue decDigit 10 cs).map (fun n => .dec (-n))
  | '+' :: cs => (digitsValue decDigit 10 cs).map (fun n => .dec n)
  | cs => (digitsValue decDigit 10 cs).map (fun n => .dec n)

/-- The number an operand spells, or the error that it is none. -/
def numberOf (t : List Char) : Except AsmError AsmNumber :=
  match readNumber t with
  | some n => .ok n
  | none => .error .badOperand

/-- A sample operand: -32768 to 32767, or `0x0000` to `0xFFFF` read as `s16` (R90). -/
def sampleOperand : AsmNumber → Except AsmError Sample
  | .dec n => if -32768 ≤ n ∧ n ≤ 32767 then .ok (BitVec.ofInt 16 n) else .error .outOfRange
  | .hex n => if n < 2 ^ 16 then .ok (BitVec.ofNat 16 n) else .error .outOfRange

/-- An unsigned operand below the bound that its caller gives; a negative number is out of range. -/
def unsignedOperand (bound : Nat) : AsmNumber → Except AsmError Nat
  | .dec n => if 0 ≤ n ∧ n < bound then .ok n.toNat else .error .outOfRange
  | .hex n => if n < bound then .ok n else .error .outOfRange

/-- A 64-bit operand, 0 to 2^64 - 1. R90 gives this range for the `t` of BLK. For the `p` of RSV2 and RSV3 it gives none,
and that a negative number and one of 2^64 or more are refused is the model's choice (notes, entry 27, DESIGN CHOICE). -/
def wordOperand (n : AsmNumber) : Except AsmError Word64 :=
  (unsignedOperand (2 ^ 64) n).map (BitVec.ofNat 64)

/-- A byte operand. R92 says that the operands are bytes; that they are written as 0 to 255, and no negative number stands
for one, is the model's choice (notes, entry 27, DESIGN CHOICE). -/
def byteOperand (t : List Char) : Except AsmError Byte := do
  let n ← numberOf t
  (unsignedOperand 256 n).map (BitVec.ofNat 8)

/-- The bits of the characters of a bit string. -/
def bitChars (cs : List Char) : Except AsmError (List Bool) :=
  cs.mapM (fun c => if c = '1' then .ok true else if c = '0' then .ok false else .error .badOperand)

/-- A quoted bit string of at least one character (R93). -/
def bitString : List Char → Except AsmError (List Bool)
  | '"' :: cs =>
    match cs.reverse with
    | '"' :: inside => if inside = [] then .error .outOfRange else bitChars inside.reverse
    | _ => .error .badOperand
  | _ => .error .badOperand

/-- The commands of a list of samples. -/
def offerSamples (xs : List Sample) : List HostInput := xs.map (fun x => offer (smpOf x))

/-- One line's command, pseudo-instruction or directive with its operands (R90 to R93). R92 gives no lower bound for the
`m` of PCM16LE: that `m = 0`, no byte at all, is legal and makes no command is the model's choice, and so is that an odd
number of bytes is refused (notes, entry 27, DESIGN CHOICE). -/
def assembleItem (p : Build) (word : List Char) (ops : List (List Char)) : Except AsmError (List HostInput) :=
  if word = ['S', 'M', 'P'] then
    match ops with
    | [x] => do .ok [offer (smpOf (← sampleOperand (← numberOf x)))]
    | _ => .error .operandCount
  else if word = ['B', 'L', 'K'] then
    match ops with
    | [t] => do .ok [offer (.blk (← wordOperand (← numberOf t)))]
    | _ => .error .operandCount
  else if word = ['R', 'S', 'V', '2'] then
    match ops with
    | [v] => do .ok [offer (.rsv2 (← wordOperand (← numberOf v)))]
    | _ => .error .operandCount
  else if word = ['R', 'S', 'V', '3'] then
    match ops with
    | [v] => do .ok [offer (.rsv3 (← wordOperand (← numberOf v)))]
    | _ => .error .operandCount
  else if word = ['R', 'E', 'S', 'E', 'T'] then
    match ops with
    | [] => .ok [.reset]
    | _ => .error .operandCount
  else if word = ['R', 'U', 'N'] then
    match ops with
    | [x, n] => do
      let v ← sampleOperand (← numberOf x)
      match ← numberOf n with
      | .dec k => if 0 ≤ k then .ok (offerSamples (runSamples v k.toNat)) else .error .outOfRange
      | .hex k => .ok (offerSamples (runSamples v k))
    | _ => .error .operandCount
  else if word = ['P', 'C', 'M', '1', '6', 'L', 'E'] then do
    let bytes ← ops.mapM byteOperand
    if bytes.length % 2 = 0 then .ok (offerSamples (pcm16le bytes)) else .error .operandCount
  else if word = ['M', 'A', 'N', 'C', 'H'] then
    match ops with
    | [a, t] => do
      let v ← unsignedOperand 32768 (← numberOf a)
      if v = 0 then .error .outOfRange else .ok (offerSamples (manch p v (← bitString t)))
    | _ => .error .operandCount
  else .error .unknownMnemonic

/-- A line of text: nothing where it is blank or a comment, else its first word and its operands. -/
def assembleLine (p : Build) (line : List Char) : Except AsmError (List HostInput) :=
  let t := trimBlanks (stripComment line)
  if t = [] then .ok []
  else
    assembleItem p (t.takeWhile (fun c => !isBlankChar c)) (splitOperands (t.dropWhile (fun c => !isBlankChar c)))

/-- A program: its lines in order; the first line that spells nothing refuses it. -/
def assemble (p : Build) (lines : List (List Char)) : Except AsmError (List HostInput) :=
  (lines.mapM (assembleLine p)).map List.flatten

end Sys2Proof.Machine
end

