-- ==== Sys2Proof/Safety.lean ====
section
/-!
DEFINITION. What counts as a good state and a good response, in the words the statements use: the spec's invariants
(10_state.md R34 to R36) and the legal responses (30_encoding.md R80, R88).
-/

namespace Sys2Proof.Machine

/-- Invariant I-F (R35, R31, R32). The cursor equation is R35's with `rem/8` rounded UP: as R35 writes it, rounded down,
R166 breaks it after the first tail bit (notes, entry 11, DEDUCED). -/
structure FrameInv (s : State) : Prop where
  /-- No frame is present while a tag is awaited, and the cursor and the tail count are 0. -/
  awaiting : s.fphase = .awaitTag → s.blen = 0 ∧ s.wcur = 0 ∧ s.rem = 0
  /-- A pending frame has 16 to 23 bytes. -/
  sizes : s.fphase = .consumeTail → 16 ≤ s.blen.toNat ∧ s.blen.toNat ≤ maxFrame
  /-- Its cursor lies behind the eight header bytes and inside the frame. -/
  cursor : s.fphase = .consumeTail → 8 ≤ s.wcur.toNat ∧ s.wcur.toNat + 1 ≤ s.blen.toNat
  /-- Its tail bits to come fill exactly the bytes from the cursor on. -/
  tail : s.fphase = .consumeTail →
    1 ≤ s.rem.toNat ∧ s.rem.toNat ≤ 120 ∧ s.wcur.toNat + (s.rem.toNat + 7) / 8 = s.blen.toNat

/-- Invariant I-S: outside SYNCHRONISED the framer is in its reset state (R36). -/
def SyncInv (s : State) : Prop :=
  s.phase ≠ .synchronised → s.acc = 0 ∧ s.fphase = .awaitTag ∧ s.blen = 0

/-- Invariant I-D: `d > 0` (R34). -/
def PeriodInv (s : State) : Prop := Fp.lt Fp.zero s.d = true

/-- The invariants of the state, together. -/
structure Inv (s : State) : Prop where
  /-- Invariant I-F. -/
  frame : FrameInv s
  /-- Invariant I-S. -/
  sync : SyncInv s
  /-- Invariant I-D. -/
  period : PeriodInv s

/-- The framer event of a decoded bit: one of the codes 1 to 6 (30_encoding.md R87, R88). -/
def FramerEvent.ofBit : FramerEvent → Bool
  | .shift => true
  | .tagOpen => true
  | .tagReject => true
  | .tail => true
  | .doneOk => true
  | .doneFail => true
  | .none => false
  | .disc => false

/-- The legal combinations of R88. -/
structure LegalEvents (r : Response) : Prop where
  /-- A framer event of a bit exactly with BIT. -/
  bit : r.fev.ofBit = true ↔ r.sev = .bit
  /-- DISC exactly with LOST. -/
  disc : r.fev = .disc ↔ r.sev = .lost
  /-- No framer event exactly otherwise. -/
  quiet : r.fev = .none ↔ r.sev ≠ .bit ∧ r.sev ≠ .lost
  /-- BLK and the reserved commands have no event. -/
  other : r.op ≠ 0b00#2 → r.sev = .none ∧ r.fev = .none
  /-- Neither has an illegal command. -/
  illegal : r.ill = true → r.sev = .none ∧ r.fev = .none

/-- The fields of R80 that are 1, or not 0, only with one event. -/
structure LegalFields (r : Response) : Prop where
  /-- `ill` marks the reserved codes. -/
  ill : r.ill = true ↔ r.op = 0b10#2 ∨ r.op = 0b11#2
  /-- `bit_valid` marks BIT. -/
  bitValid : r.bitValid = true ↔ r.sev = .bit
  /-- The decoded bit is 0 where none is valid. -/
  bit : r.bitValid = false → r.bit = false
  /-- `disc` marks LOST. -/
  disc : r.disc = true ↔ r.sev = .lost
  /-- The residue is 0 where no frame completes. -/
  crc : r.fev ≠ .doneOk → r.fev ≠ .doneFail → r.crc = 0
  /-- `desc_valid` marks DONE_OK. -/
  descValid : r.descValid = true ↔ r.fev = .doneOk
  /-- The descriptor fields are 0 where there is no descriptor. -/
  desc : r.descValid = false → r.descLen = 0 ∧ r.descData = 0 ∧ r.tsBlock = 0 ∧ r.tsOff = 0

/-- A response that the spec allows. -/
structure LegalResponse (r : Response) : Prop where
  /-- Its events are a legal combination. -/
  events : LegalEvents r
  /-- Its fields agree with its events. -/
  fields : LegalFields r

end Sys2Proof.Machine
end

