-- ==== Sys2Proof/Certificates/Slice0/Obligations.lean ====
section
/-!
DEFINITION. The statements for the provers. The words they are written in stand first, spelled from the spec's rules at
the standard parameters, and apart from the definitions the meanings use.
-/

namespace Sys2Proof.Spec

open Sys2Proof.Machine

/-- The previous sample and the current one have different signs, 0 counting as non-negative (R120, R121). -/
def SignChange (p x : Sample) : Prop := ¬(p.toInt < 0 ↔ x.toInt < 0)

/-- `EPS = 5.0` (R7). -/
abbrev eps : Binary64 := 0x4014000000000000

/-- `DAMP`, the binary64 value nearest 0.1 (R8). -/
abbrev damp : Binary64 := 0x3FB999999999999A

/-- `f64(FS) /. f64(DATA_RATE)` at the defaults (R5, R6). -/
def period : Binary64 := Fp.div (Fp.ofInt 48000) (Fp.ofInt 1280)

/-- `c = f64(i)` for the sample about to be processed (R131). -/
def index (s : State) : Binary64 := Fp.ofInt s.inSampleCount.toNat

/-- `e = c -. next` (R131). -/
def err (s : State) : Binary64 := Fp.sub (index s) s.next

/-- `half = d /. 2.0` (R131). -/
def half (s : State) : Binary64 := Fp.div s.d 0x4000000000000000

/-- `MID(e)` (R132). -/
def Mid (eps : Binary64) (s : State) : Prop := Fp.le (Fp.fabs (Fp.add (err s) (half s))) eps = true

/-- `LATE(e)` (R132). -/
def Late (eps : Binary64) (s : State) : Prop := Fp.le (Fp.fabs (Fp.sub (err s) (half s))) eps = true

/-- `CEN(e)` (R132). -/
def Cen (eps : Binary64) (s : State) : Prop := Fp.le (Fp.fabs (err s)) eps = true

/-- The period after BIT: nudged where `fabs(e) >=. 1.0` (R141). -/
def newPeriod (damp : Binary64) (s : State) : Binary64 :=
  if Fp.ge (Fp.fabs (err s)) 0x3FF0000000000000 then Fp.add s.d (Fp.mul (err s) damp) else s.d

/-- The accumulator after the bit that `x` decodes is shifted in (R143, R160). -/
def shiftedAcc (x : Sample) (s : State) : Word64 :=
  (s.acc <<< 1) ||| (if x.toInt < 0 then 1 else 0)

/-- A response with no event: `op`, the index, and both phases as they are (R80, R81). -/
def answer (op : BitVec 2) (s : State) : Response :=
  { Response.zero with op := op, idx := s.inSampleCount, phase := s.phase, fphase := s.fphase }

/-- The state `s` with the three fields that every SMP writes, and the response on the port (R100). -/
def sampled (x : Sample) (r : Response) (s : State) : State :=
  { s with
    lastSample := x
    inSampleCount := s.inSampleCount + 1
    blockOffset := s.blockOffset + 1
    out := some r }

/-- The state `s` with what a BIT writes before the framer acts: the period, the prediction, the accumulator (R141). -/
def bitTaken (x : Sample) (s : State) : State :=
  { s with
    d := newPeriod damp s
    next := Fp.add s.next (newPeriod damp s)
    acc := shiftedAcc x s }

/-- The response of a BIT before the framer acts (R141, R143). -/
def bitAnswer (x : Sample) (s : State) : Response :=
  { answer 0b00#2 s with sev := .bit, bitValid := true, bit := decide (x.toInt < 0) }

/-- The transition at `x` is a bit-centre transition in SYNCHRONISED (R139). -/
structure BitCentre (x : Sample) (s : State) : Prop where
  /-- The synchronizer is locked. -/
  phase : s.phase = .synchronised
  /-- The sample makes a transition. -/
  change : SignChange s.lastSample x
  /-- It is no half-bit. -/
  mid : ¬Mid eps s
  /-- It lies at the prediction. -/
  cen : Cen eps s

/-- The cursor equation as R35 writes it, `rem/8` rounded down. -/
def CursorRoundedDown (s : State) : Prop :=
  s.fphase = .consumeTail →
    s.wcur.toNat + s.rem.toNat / 8 = s.blen.toNat ∧ 8 ≤ s.wcur.toNat ∧ s.wcur.toNat + 1 ≤ s.blen.toNat

/-- No finite value is nearer to `v / scale` units than the finite `r`, and where another is as near, the pattern of `r`
is even (R14). -/
def NearestEven (r : Binary64) (v scale : Int) : Prop :=
  ∃ n w, Fp.unpack r = .fin n w ∧ ∀ (c : Binary64) k z, Fp.unpack c = .fin k z →
    |Fp.units n w * scale - v| ≤ |Fp.units k z * scale - v| ∧
      (|Fp.units n w * scale - v| = |Fp.units k z * scale - v| → Fp.units n w ≠ Fp.units k z → r.toNat % 2 = 0)

/-- The overflow threshold in units of 2^-1074: midway between the greatest finite value `(2^53 - 1) * 2^2045` and the
next value the format would have, `2^53 * 2^2045`. -/
@[irreducible] def overflowUnits : Int := (2 ^ 54 - 1) * 2 ^ 2044

/-- `r` is `v / scale` units rounded to nearest, ties to even: finite and nearest below the overflow threshold, and from
it on the infinity with the sign of `v` (R14; notes, entry 17). -/
structure RoundsToNearest (r : Binary64) (v scale : Int) : Prop where
  /-- Below the threshold. -/
  below : |v| < overflowUnits * scale → NearestEven r v scale
  /-- At the threshold and above. -/
  above : overflowUnits * scale ≤ |v| → Fp.unpack r = .inf (decide (v < 0))

/-- The codes of `sev`, as the table of R86 lists them. -/
def sevTable : List (SyncEvent × BitVec 3) :=
  [(.none, 0), (.seed, 1), (.half, 2), (.correct, 3), (.acquire, 4), (.bit, 5), (.lost, 6), (.acqFail, 7)]

/-- The codes of `fev`, as the table of R87 lists them. -/
def fevTable : List (FramerEvent × BitVec 3) :=
  [(.none, 0), (.shift, 1), (.tagOpen, 2), (.tagReject, 3), (.tail, 4), (.doneOk, 5), (.doneFail, 6), (.disc, 7)]

/-- The codes of `phase` (R85). -/
def phaseTable : List (Phase × BitVec 2) := [(.unsynchronised, 0b00), (.firstTransition, 0b01), (.synchronised, 0b10)]

/-- The codes of `fphase` (R85). -/
def fphaseTable : List (FramePhase × BitVec 1) := [(.awaitTag, 0), (.consumeTail, 1)]

/-- One turn of the bit-serial CRC register (R190). -/
def crcSerial (r : BitVec 16) (b : Bool) : BitVec 16 :=
  if r.msb = b then r <<< 1 else (r <<< 1) ^^^ 0x1021

/-- The first eight bytes of a frame, from the accumulator at its tag-completing bit (R164). -/
def headerOf (acc : Word64) : List Byte := (List.range 8).map (fun i => acc.extractLsb' (56 - 8 * i) 8)

end Sys2Proof.Spec

open Sys2Proof Sys2Proof.Machine Sys2Proof.Spec

/-! Encoding, fetching and reset. -/

/-- R71 to R74: decoding an encoded command gives it back, and encoding a decoded beat gives the beat back. The second
clause, for SMP beats with ignored bits set, is the model's choice and no rule of the spec: R72 ignores these bits, and
the model keeps them as an operand (notes, entry 14, DESIGN CHOICE). -/
def Obligations.DecodeAndEncodeAgree : Prop :=
  (∀ i : Instr, decode (encode i) = i) ∧ ∀ b : Beat, encode (decode b) = b

/-- R94: the nine example encodings, each decoded to the command its assembly names and encoded from it. -/
def Obligations.ExampleBeatsDecode : Prop :=
  ∀ c ∈ ([(0x00000000000001F40, .smp (BitVec.ofInt 16 8000) 0), (0x0000000000000E0C0, .smp (BitVec.ofInt 16 (-8000)) 0),
      (0x00000000000000000, .smp 0 0), (0x0000000000000FFFF, .smp (BitVec.ofInt 16 (-1)) 0),
      (0x00000000000008000, .smp (BitVec.ofInt 16 (-32768)) 0), (0x10000000005F5E100, .blk 100000000),
      (0x10000000000000000, .blk 0), (0x20000000000000000, .rsv2 0), (0x30000000000001234, .rsv3 0x1234)] :
      List (Beat × Instr)),
    decode c.1 = c.2 ∧ encode c.2 = c.1

/-- R72: two SMP beats that differ only in `payload[63:16]` have the same effect on the state and the response. -/
def Obligations.IgnoredSampleBitsHaveNoEffect : Prop :=
  ∀ (s : State) (b c : Beat) (rest : List HostInput), b.extractLsb 65 64 = 0b00#2 → c.extractLsb 65 64 = 0b00#2 →
    b.extractLsb 15 0 = c.extractLsb 15 0 →
      step { s with pending := .command b :: rest } = step { s with pending := .command c :: rest }

/-- R60, R71: a step runs the command that the host's oldest beat spells, on the state without that beat; so a step on
the beat of a command runs that command. -/
def Obligations.StepRunsTheDecodedCommand : Prop :=
  ∀ (s : State) (rest : List HostInput),
    (∀ b : Beat, s.pending = .command b :: rest → step s = exec (decode b) { s with pending := rest }) ∧
      ∀ i : Instr, s.pending = .command (encode i) :: rest → step s = exec i { s with pending := rest }

/-- R39: reset sets every field to the value of the table, whatever the state was (`buf` is unspecified there), and so
does `State.reset`. That what the host has yet to offer stays, and that no response is on the port (R240), rests on the
model's own fields `pending` and `out` and on reset being an input of its own (notes, entries 6, 7 and 10). -/
def Obligations.ResetSetsEveryField : Prop :=
  period = 0x4042C00000000000 ∧
    ∀ (s : State) (rest : List HostInput), s.pending = .reset :: rest →
      ∃ buf : FrameBuffer, step s = .next
        { phase := .unsynchronised, d := period, next := 0x0000000000000000, lastSample := 0, inSampleCount := 0,
          blockTs := 0, blockOffset := 0, acc := 0, fphase := .awaitTag, buf := buf, blen := 0, wcur := 0, rem := 0,
          frameTsBlock := 0, frameTsOff := 0, pending := rest, out := none } ∧
        step s = .next { State.reset with pending := rest }

/-- R223, R80: with no command offered the block holds its state however many steps pass, and no response is valid. -/
def Obligations.IdleStepsHoldTheState : Prop :=
  ∀ (n : Nat) (s : State), s.pending = [] → Sys2Proof.core.run (n + 1) s = .next { s with out := none }

/-- R210, R215: no step traps: from every state a step gives a next state. -/
def Obligations.NoStepTraps : Prop :=
  ∀ s : State, ∃ t : State, step s = .next t

/-! BLK and the reserved commands. -/

/-- R101: BLK writes the block's timestamp and offset and nothing else, and answers with no event. -/
def Obligations.BlkWritesOnlyTheBlockFields : Prop :=
  ∀ (t : Word64) (s : State),
    exec (.blk t) s = .next { s with blockTs := t, blockOffset := 0, out := some (answer 0b01#2 s) }

/-- R57, R101: a BLK right after a BLK replaces it, so repeating one leaves the same state and response. -/
def Obligations.LaterBlkReplacesEarlier : Prop :=
  ∀ (a b : Word64) (s u : State), exec (.blk a) s = .next u →
    exec (.blk b) u = exec (.blk b) s ∧ exec (.blk a) u = .next u

/-- R102: a reserved command of either code writes no state and answers ILL with its `op`. -/
def Obligations.ReservedCommandsReportIll : Prop :=
  ∀ (v : Word64) (s : State),
    exec (.rsv2 v) s = .next { s with out := some { answer 0b10#2 s with ill := true } } ∧
      exec (.rsv3 v) s = .next { s with out := some { answer 0b11#2 s with ill := true } }

/-- R102: after a reserved command every command behaves as if it had not been there. -/
def Obligations.ReservedCommandsAreTransparent : Prop :=
  ∀ (v : Word64) (s t : State) (i : Instr), exec (.rsv2 v) s = .next t ∨ exec (.rsv3 v) s = .next t →
    exec i t = exec i s

/-! SMP: the transition detector and the synchronizer. -/

/-- R120: a sample is classified negative exactly below 0, which is its bit 15, so 0 is non-negative; and the transition
test of R121 holds exactly where the signs of the two samples differ. -/
def Obligations.TransitionIsASignChange : Prop :=
  ∀ p x : Sample, (neg x = true ↔ x.toInt < 0) ∧ neg x = x.getLsbD 15 ∧ neg 0 = false ∧
    (transition p x = true ↔ SignChange p x)

/-- R100: a sample without a transition writes only the history and the two counters. -/
def Obligations.SampleWithoutTransition : Prop :=
  ∀ (s : State) (x : Sample) (g : BitVec 48), ¬SignChange s.lastSample x →
    exec (.smp x g) s = .next (sampled x (answer 0b00#2 s) s)

/-- R133: the first transition seeds the period and the prediction. -/
def Obligations.FirstTransitionSeeds : Prop :=
  ∀ (s : State) (x : Sample) (g : BitVec 48), s.phase = .unsynchronised → SignChange s.lastSample x →
    exec (.smp x g) s = .next
      (sampled x { answer 0b00#2 s with sev := .seed, phase := .firstTransition }
        { s with phase := .firstTransition, d := period, next := Fp.add (index s) period })

/-- R135, R140: a half-bit transition is ignored in FIRST_TRANSITION and in SYNCHRONISED. -/
def Obligations.HalfBitsAreIgnored : Prop :=
  ∀ (s : State) (x : Sample) (g : BitVec 48), s.phase ≠ .unsynchronised → SignChange s.lastSample x → Mid eps s →
    exec (.smp x g) s = .next (sampled x { answer 0b00#2 s with sev := .half } s)

/-- R134, R136: a late transition in FIRST_TRANSITION moves the prediction back by half a period, literally. -/
def Obligations.LateTransitionCorrects : Prop :=
  ∀ (s : State) (x : Sample) (g : BitVec 48), s.phase = .firstTransition → SignChange s.lastSample x →
    ¬Mid eps s → Late eps s →
      exec (.smp x g) s = .next
        (sampled x { answer 0b00#2 s with sev := .correct } { s with next := Fp.sub s.next (half s) })

/-- R134, R137: a transition at the prediction in FIRST_TRANSITION acquires; no bit is decoded. -/
def Obligations.CentreTransitionAcquires : Prop :=
  ∀ (s : State) (x : Sample) (g : BitVec 48), s.phase = .firstTransition → SignChange s.lastSample x →
    ¬Mid eps s → ¬Late eps s → Cen eps s →
      exec (.smp x g) s = .next
        (sampled x { answer 0b00#2 s with sev := .acquire, phase := .synchronised }
          { s with phase := .synchronised, next := Fp.add s.next s.d })

/-- R134, R138: any other transition in FIRST_TRANSITION fails the acquisition; nothing but the phase is written. -/
def Obligations.OtherTransitionFailsAcquisition : Prop :=
  ∀ (s : State) (x : Sample) (g : BitVec 48), s.phase = .firstTransition → SignChange s.lastSample x →
    ¬Mid eps s → ¬Late eps s → ¬Cen eps s →
      exec (.smp x g) s = .next
        (sampled x { answer 0b00#2 s with sev := .acqFail, phase := .unsynchronised }
          { s with phase := .unsynchronised })

/-- R139, R142, R170: a transition in SYNCHRONISED that is neither half-bit nor centre loses sync, and the framer takes
its reset state; the period, the prediction, the buffer bytes and the latch stay. -/
def Obligations.StrayTransitionLosesSync : Prop :=
  ∀ (s : State) (x : Sample) (g : BitVec 48), s.phase = .synchronised → SignChange s.lastSample x →
    ¬Mid eps s → ¬Cen eps s →
      exec (.smp x g) s = .next
        (sampled x
          { answer 0b00#2 s with
            sev := .lost, disc := true, fev := .disc, phase := .unsynchronised, fphase := .awaitTag }
          { s with phase := .unsynchronised, acc := 0, fphase := .awaitTag, blen := 0, wcur := 0, rem := 0 })

/-! SMP: the bits and the framer. -/

/-- R141, R160, R165: a bit that completes no tag is shifted in. -/
def Obligations.BitWithoutTagIsShiftedIn : Prop :=
  ∀ (s : State) (x : Sample) (g : BitVec 48), BitCentre x s → s.fphase = .awaitTag →
    (shiftedAcc x s).extractLsb' 16 40 ≠ Config.tag →
      exec (.smp x g) s = .next (sampled x { bitAnswer x s with fev := .shift } (bitTaken x s))

/-- R161 to R163: a tag with a length below 8 is spurious; nothing is written beyond the shift. -/
def Obligations.ShortTagIsRejected : Prop :=
  ∀ (s : State) (x : Sample) (g : BitVec 48), BitCentre x s → s.fphase = .awaitTag →
    (shiftedAcc x s).extractLsb' 16 40 = Config.tag → ((shiftedAcc x s).extractLsb' 56 4).toNat < 8 →
      exec (.smp x g) s = .next (sampled x { bitAnswer x s with fev := .tagReject } (bitTaken x s))

/-- R164: a tag with a length `L` of at least 8 opens a frame of `L + 8` bytes with `8 * L` tail bits to come: its first
eight bytes are the accumulator's, the other bytes stay, and the timestamp pair of this sample is latched. -/
def Obligations.TagOpensFrame : Prop :=
  ∀ (s : State) (x : Sample) (g : BitVec 48), BitCentre x s → s.fphase = .awaitTag →
    (shiftedAcc x s).extractLsb' 16 40 = Config.tag → 8 ≤ ((shiftedAcc x s).extractLsb' 56 4).toNat →
      ∃ b : FrameBuffer,
        (∀ i (h : i < maxFrame),
          b[i] = if i < 8 then (shiftedAcc x s).extractLsb' (56 - 8 * i) 8 else s.buf[i]) ∧
        exec (.smp x g) s = .next
          (sampled x { bitAnswer x s with fev := .tagOpen, fphase := .consumeTail }
            { bitTaken x s with
              fphase := .consumeTail
              blen := BitVec.ofNat 5 (((shiftedAcc x s).extractLsb' 56 4).toNat + 8)
              buf := b
              wcur := 8
              rem := BitVec.ofNat 7 (8 * ((shiftedAcc x s).extractLsb' 56 4).toNat)
              frameTsBlock := s.blockTs
              frameTsOff := s.blockOffset })

/-- R166: a tail bit that ends no byte only counts down. -/
def Obligations.TailBitCountsDown : Prop :=
  ∀ (s : State) (x : Sample) (g : BitVec 48), BitCentre x s → s.fphase = .consumeTail →
    (s.rem - 1).toNat % 8 ≠ 0 →
      exec (.smp x g) s = .next
        (sampled x { bitAnswer x s with fev := .tail } { bitTaken x s with rem := s.rem - 1 })

/-- R166: a tail bit that ends a byte, but not the frame, appends the accumulator's low byte at the cursor and moves the
cursor; every other byte stays. -/
def Obligations.TailByteIsAppended : Prop :=
  ∀ (s : State) (x : Sample) (g : BitVec 48), BitCentre x s → s.fphase = .consumeTail →
    (s.rem - 1).toNat % 8 = 0 → s.rem ≠ 1 → s.wcur.toNat < maxFrame →
      ∃ b : FrameBuffer,
        (∀ i (h : i < maxFrame),
          b[i] = if i = s.wcur.toNat then (shiftedAcc x s).extractLsb' 0 8 else s.buf[i]) ∧
        exec (.smp x g) s = .next
          (sampled x { bitAnswer x s with fev := .tail }
            { bitTaken x s with rem := s.rem - 1, buf := b, wcur := s.wcur + 1 })

/-- R166, R167, R191, R200: the last tail bit appends the last byte and completes the frame. Its residue is reported; with
residue 0 the whole frame goes out with its latched timestamp pair, else it fails; either way the buffer is freed, and
the accumulator and the latch stay. -/
def Obligations.LastTailBitCompletesFrame : Prop :=
  ∀ (s : State) (x : Sample) (g : BitVec 48), BitCentre x s → s.fphase = .consumeTail → s.rem = 1 → FrameInv s →
    ∃ b : FrameBuffer,
      (∀ i (h : i < maxFrame),
        b[i] = if i = s.wcur.toNat then (shiftedAcc x s).extractLsb' 0 8 else s.buf[i]) ∧
      exec (.smp x g) s = .next
        (sampled x
          (if crc16 (b.toList.take s.blen.toNat) = 0 then
            { bitAnswer x s with
              fev := .doneOk
              descValid := true
              descLen := s.blen
              descData := descLanes (b.toList.take s.blen.toNat)
              tsBlock := s.frameTsBlock
              tsOff := s.frameTsOff
              fphase := .awaitTag }
          else
            { bitAnswer x s with
              fev := .doneFail
              crc := crc16 (b.toList.take s.blen.toNat)
              fphase := .awaitTag })
          { bitTaken x s with rem := 0, buf := b, fphase := .awaitTag, blen := 0, wcur := 0 })

/-- R130 to R142, for every build: the synchronizer's event, phase, period and prediction after any SMP, in the fixed
order of the tests. -/
def Obligations.SynchronizerOfEveryBuild : Prop :=
  ∀ (p : Build) (s : State) (x : Sample) (g : BitVec 48),
    let t := performFor p (.smp x g) s
    let d₀ := Fp.div (Fp.ofInt p.params.fs) (Fp.ofInt p.params.dataRate)
    ∃ r, t.out = some r ∧
      (¬SignChange s.lastSample x → r.sev = .none ∧ t.phase = s.phase ∧ t.d = s.d ∧ t.next = s.next) ∧
      (SignChange s.lastSample x →
        (s.phase = .unsynchronised →
          r.sev = .seed ∧ t.phase = .firstTransition ∧ t.d = d₀ ∧ t.next = Fp.add (index s) d₀) ∧
        (s.phase = .firstTransition →
          (Mid p.params.eps s → r.sev = .half ∧ t.phase = s.phase ∧ t.d = s.d ∧ t.next = s.next) ∧
          (¬Mid p.params.eps s → Late p.params.eps s →
            r.sev = .correct ∧ t.phase = s.phase ∧ t.d = s.d ∧ t.next = Fp.sub s.next (half s)) ∧
          (¬Mid p.params.eps s → ¬Late p.params.eps s → Cen p.params.eps s →
            r.sev = .acquire ∧ t.phase = .synchronised ∧ t.d = s.d ∧ t.next = Fp.add s.next s.d) ∧
          (¬Mid p.params.eps s → ¬Late p.params.eps s → ¬Cen p.params.eps s →
            r.sev = .acqFail ∧ t.phase = .unsynchronised ∧ t.d = s.d ∧ t.next = s.next)) ∧
        (s.phase = .synchronised →
          (Mid p.params.eps s → r.sev = .half ∧ t.phase = s.phase ∧ t.d = s.d ∧ t.next = s.next) ∧
          (¬Mid p.params.eps s → Cen p.params.eps s →
            r.sev = .bit ∧ r.bit = decide (x.toInt < 0) ∧ t.phase = s.phase ∧
              t.d = newPeriod p.params.damp s ∧ t.next = Fp.add s.next (newPeriod p.params.damp s)) ∧
          (¬Mid p.params.eps s → ¬Cen p.params.eps s →
            r.sev = .lost ∧ t.phase = .unsynchronised ∧ t.d = s.d ∧ t.next = s.next)))

/-! Responses. -/

/-- R80, R81, R100 to R102: every command gives a next state with exactly one response, which carries its `op`, the
index before the step and both phases after it. -/
def Obligations.EveryCommandIsAnswered : Prop :=
  ∀ (i : Instr) (s : State), ∃ t r, exec i s = .next t ∧ t.out = some r ∧ r.op = i.op ∧ r.idx = s.inSampleCount ∧
    r.phase = t.phase ∧ r.fphase = t.fphase ∧ t.pending = s.pending

/-- R88, R80, R212, for every build: every response is a legal combination of events, and its fields agree with them. -/
def Obligations.ResponsesAreLegal : Prop :=
  ∀ (p : Build) (i : Instr) (s : State) (r : Response), (performFor p i s).out = some r → LegalResponse r

/-- R60, R22, R80: commands offered in a row are answered one by one, in order; the step of the `j`-th gives its response
with its `op`, and the index counts the SMPs before it. -/
def Obligations.ResponsesComeInOrder : Prop :=
  ∀ (s : State) (is : List Instr) (j : Nat) (h : j < is.length), ∃ (t : State) (r : Response),
    Sys2Proof.core.run (j + 1) { s with pending := is.map offer } = .next t ∧ t.out = some r ∧ r.op = is[j].op ∧
      t.pending = (is.drop (j + 1)).map offer ∧
      r.idx = s.inSampleCount + BitVec.ofNat 64 ((is.take j).countP (fun i => decide (i.op = 0b00#2)))

/-- R80, R85 to R87: every field of a response stands at its place in the 413 bits of the beat, the events and the phases
with the codes of the spec's tables, and the phase code `11` is never output. -/
def Obligations.ResponseBeatFields : Prop :=
  ∀ r : Response,
    (packResponse r).extractLsb' 0 2 = r.op ∧ (packResponse r).extractLsb' 2 1 = BitVec.ofBool r.ill ∧
    (packResponse r).extractLsb' 3 64 = r.idx ∧ (r.sev, (packResponse r).extractLsb' 67 3) ∈ sevTable ∧
    (packResponse r).extractLsb' 70 1 = BitVec.ofBool r.bitValid ∧
    (packResponse r).extractLsb' 71 1 = BitVec.ofBool r.bit ∧ (packResponse r).extractLsb' 72 1 = BitVec.ofBool r.disc ∧
    (r.fev, (packResponse r).extractLsb' 73 3) ∈ fevTable ∧ (packResponse r).extractLsb' 76 16 = r.crc ∧
    (packResponse r).extractLsb' 92 1 = BitVec.ofBool r.descValid ∧ (packResponse r).extractLsb' 93 5 = r.descLen ∧
    (packResponse r).extractLsb' 98 184 = r.descData ∧ (packResponse r).extractLsb' 282 64 = r.tsBlock ∧
    (packResponse r).extractLsb' 346 64 = r.tsOff ∧ (r.phase, (packResponse r).extractLsb' 410 2) ∈ phaseTable ∧
    (r.fphase, (packResponse r).extractLsb' 412 1) ∈ fphaseTable ∧ (packResponse r).extractLsb' 410 2 ≠ 0b11#2

/-- R82: on a descriptor, byte `i` of the frame stands in lane `i`, and every lane from the frame's length on is 0. -/
def Obligations.DescriptorLanes : Prop :=
  ∀ (s t : State) (x : Sample) (g : BitVec 48) (r : Response), FrameInv s → exec (.smp x g) s = .next t →
    t.out = some r → r.descValid = true →
      16 ≤ r.descLen.toNat ∧ r.descLen.toNat ≤ maxFrame ∧
        (∀ i (h : i < maxFrame), i < r.descLen.toNat → r.descData.extractLsb' (8 * i) 8 = t.buf[i]) ∧
        r.descData.toNat < 2 ^ (8 * r.descLen.toNat)

/-! What each command may write. -/

/-- R173, for every build: the framer's state changes only on BIT and on LOST. -/
def Obligations.FramerChangesOnlyOnBitAndLost : Prop :=
  ∀ (p : Build) (i : Instr) (s : State) (r : Response), (performFor p i s).out = some r → r.sev ≠ .bit →
    r.sev ≠ .lost →
      let t := performFor p i s
      t.acc = s.acc ∧ t.fphase = s.fphase ∧ t.buf = s.buf ∧ t.blen = s.blen ∧ t.wcur = s.wcur ∧ t.rem = s.rem ∧
        t.frameTsBlock = s.frameTsBlock ∧ t.frameTsOff = s.frameTsOff

/-- R23 to R33, for every build: which commands and events write each field. -/
def Obligations.FieldsAreWrittenOnlyByTheirRules : Prop :=
  ∀ (p : Build) (i : Instr) (s : State) (r : Response), (performFor p i s).out = some r →
    let t := performFor p i s
    (t.phase ≠ s.phase → r.sev = .seed ∨ r.sev = .acquire ∨ r.sev = .lost ∨ r.sev = .acqFail) ∧
    (t.d ≠ s.d → r.sev = .seed ∨ r.sev = .bit) ∧
    (t.next ≠ s.next → r.sev = .seed ∨ r.sev = .correct ∨ r.sev = .acquire ∨ r.sev = .bit) ∧
    ((∀ x g, i ≠ .smp x g) → t.lastSample = s.lastSample ∧ t.inSampleCount = s.inSampleCount) ∧
    (∀ x g, i = .smp x g → t.lastSample = x ∧ t.inSampleCount = s.inSampleCount + 1 ∧
      t.blockOffset = s.blockOffset + 1) ∧
    ((∀ v, i ≠ .blk v) → t.blockTs = s.blockTs) ∧
    (∀ v, i = .blk v → t.blockTs = v ∧ t.blockOffset = 0) ∧
    ((∀ x g, i ≠ .smp x g) → (∀ v, i ≠ .blk v) → t.blockOffset = s.blockOffset) ∧
    (t.acc ≠ s.acc → r.sev = .bit ∨ r.sev = .lost) ∧
    (t.frameTsBlock ≠ s.frameTsBlock ∨ t.frameTsOff ≠ s.frameTsOff → r.fev = .tagOpen) ∧
    (t.fphase ≠ s.fphase ∨ t.blen ≠ s.blen →
      r.fev = .tagOpen ∨ r.fev = .doneOk ∨ r.fev = .doneFail ∨ r.fev = .disc) ∧
    (t.rem ≠ s.rem ∨ t.wcur ≠ s.wcur →
      r.fev = .tagOpen ∨ r.fev = .tail ∨ r.fev = .doneOk ∨ r.fev = .doneFail ∨ r.fev = .disc) ∧
    (t.buf ≠ s.buf → r.fev = .tagOpen ∨ r.fev = .tail ∨ r.fev = .doneOk ∨ r.fev = .doneFail)

/-- R147, for every build: samples that all have the sign of the last one leave the synchronizer and the framer as they
are, however many there are; only the index advances. -/
def Obligations.ConstantLevelChangesNothing : Prop :=
  ∀ (p : Build) (xs : List Sample) (s : State), (∀ x ∈ xs, (x.toInt < 0 ↔ s.lastSample.toInt < 0)) →
    let t := performAll p (xs.map smpOf) s
    t.phase = s.phase ∧ t.d = s.d ∧ t.next = s.next ∧ t.acc = s.acc ∧ t.fphase = s.fphase ∧ t.buf = s.buf ∧
      t.blen = s.blen ∧ t.wcur = s.wcur ∧ t.rem = s.rem ∧ t.frameTsBlock = s.frameTsBlock ∧
      t.frameTsOff = s.frameTsOff ∧ t.inSampleCount = s.inSampleCount + BitVec.ofNat 64 xs.length

/-! Invariants. -/

/-- R34 to R36: the invariants hold right after reset. -/
def Obligations.InvariantsHoldAtReset : Prop := Inv State.reset

/-- R34 to R36, R150: every step keeps the invariants, from every state that has them. The cursor equation is the one
that R164 and R166 give, with `rem/8` rounded up (notes, entry 11). -/
def Obligations.EveryStepKeepsTheInvariants : Prop :=
  ∀ s t : State, Inv s → step s = .next t → Inv t

/-- R35 literally, with `rem/8` rounded down: that every step keeps it. It fails after the first tail bit (notes,
entry 11). -/
def Obligations.CursorEquationRoundedDownIsKept : Prop :=
  ∀ s t : State, Inv s → CursorRoundedDown s → step s = .next t → CursorRoundedDown t

/-- R150, for every build whose rates have finite binary64 values: the nominal period is positive, and every command
keeps `d > 0`, its nudge included. -/
def Obligations.PeriodStaysPositiveInEveryBuild : Prop :=
  ∀ p : Build, Fp.isFinite (Fp.ofInt p.params.fs) = true → Fp.isFinite (Fp.ofInt p.params.dataRate) = true →
    Fp.lt Fp.zero (State.resetFor p).d = true ∧
      ∀ (i : Instr) (s : State), Fp.lt Fp.zero s.d = true → Fp.lt Fp.zero (performFor p i s).d = true

/-- R150 literally: that the constraints on the parameters alone make the period positive at reset. It fails where both
rates are too large for binary64 (notes, entry 12). -/
def Obligations.PeriodIsPositiveInEveryLegalBuild : Prop :=
  ∀ p : Build, Fp.lt Fp.zero (State.resetFor p).d = true

/-- R148, for every build whose half period is within `EPS`: SYNCHRONISED is never reached and no bit is decoded. -/
def Obligations.OverlappingWindowsNeverAcquire : Prop :=
  ∀ p : Build, Fp.le (Fp.div (nominalPeriod p) Fp.two) p.params.eps = true →
    let Unlocked := fun s : State =>
      s.phase ≠ .synchronised ∧ (s.phase = .firstTransition → s.d = nominalPeriod p) ∧
        ∀ r, s.out = some r → r.sev ≠ .bit ∧ r.bitValid = false
    Unlocked (State.resetFor p) ∧ ∀ s, Unlocked s → Unlocked (stepFor p s)

/-- R152: at the defaults, whatever transition follows a CORRECT fails the acquisition, while the index is exact. -/
def Obligations.AcqFailFollowsCorrect : Prop :=
  ∀ (s t u : State) (x y : Sample) (g h : BitVec 48) (r : Response), s.phase = .firstTransition → s.d = period →
    exec (.smp x g) s = .next t → t.out = some r → r.sev = .correct →
      u.phase = .firstTransition → u.d = t.d → u.next = t.next →
        s.inSampleCount.toNat < u.inSampleCount.toNat → u.inSampleCount.toNat < 2 ^ 53 → SignChange u.lastSample y →
          ∃ v r', exec (.smp y h) u = .next v ∧ v.out = some r' ∧ r'.sev = .acqFail ∧ v.phase = .unsynchronised

/-- R141, R150, R151, for every build: a BIT leaves the period at least half of what it was, and raises it by at most
`EPS *. DAMP`. -/
def Obligations.PeriodNudgeIsBounded : Prop :=
  ∀ (p : Build) (s : State) (x : Sample) (g : BitVec 48) (r : Response), Fp.isFinite s.d = true →
    Fp.lt Fp.zero s.d = true → (performFor p (.smp x g) s).out = some r → r.sev = .bit →
      Fp.le (Fp.div s.d Fp.two) (performFor p (.smp x g) s).d = true ∧
        Fp.le (performFor p (.smp x g) s).d (Fp.add s.d (Fp.mul p.params.eps p.params.damp)) = true

/-- R213, for every build: take two states that agree on the index, the block fields and the input, and that both lose
sync on a sample; perform on both the same commands, without a sign change among their samples (blocks and reserved
commands are free), and then a transition, which seeds. The states agree on everything but the buffer bytes and the
stale latch, which no response shows. -/
def Obligations.LossForgetsThePast : Prop :=
  ∀ (p : Build) (s₁ s₂ : State) (x y : Sample) (g h : BitVec 48) (between : List Instr) (r₁ r₂ : Response),
    s₁.inSampleCount = s₂.inSampleCount → s₁.blockTs = s₂.blockTs → s₁.blockOffset = s₂.blockOffset →
    s₁.pending = s₂.pending → (performFor p (.smp x g) s₁).out = some r₁ → (performFor p (.smp x g) s₂).out = some r₂ →
    r₁.sev = .lost → r₂.sev = .lost → (∀ z k, .smp z k ∈ between → ¬SignChange x z) → SignChange x y →
      let run := performAll p (.smp x g :: (between ++ [.smp y h]))
      (∃ r, (run s₁).out = some r ∧ r.sev = .seed) ∧
        { run s₁ with buf := (run s₂).buf, frameTsBlock := (run s₂).frameTsBlock, frameTsOff := (run s₂).frameTsOff } =
          run s₂

/-! The framer over a stream of bits. -/

/-- R54, R164, R166, R167, R200, for every build: a frame's bits in, the frame out. After the bit that completes a tag
with length `L`, the bits of any `L` bytes complete a frame of exactly the eight header bytes and those; its residue is
their CRC, and with residue 0 the record goes out unchanged with the timestamp pair of the tag-completing bit. -/
def Obligations.FrameRoundTrip : Prop :=
  ∀ (p : Build) (w : Work) (b : Bool) (off off' : Word64) (tail : List Byte), w.st.fphase = .awaitTag →
    let a := shiftIn w.st.acc b
    a.extractLsb' 16 40 = p.params.tag → 8 ≤ (a.extractLsb' 56 4).toNat → tail.length = (a.extractLsb' 56 4).toNat →
      let record := headerOf a ++ tail
      let w' := feedBits p off' (recordBits tail) (framerBit p b off w)
      w'.st.fphase = .awaitTag ∧ w'.st.blen = 0 ∧ w'.resp.crc = crc16 record ∧
        (crc16 record = 0 → w'.resp.fev = .doneOk ∧ w'.resp.descValid = true ∧
          w'.resp.descLen = BitVec.ofNat 5 record.length ∧ w'.resp.descData = descLanes record ∧
          w'.resp.tsBlock = w.st.blockTs ∧ w'.resp.tsOff = off) ∧
        (crc16 record ≠ 0 → w'.resp.fev = .doneFail ∧ w'.resp.descValid = w.resp.descValid)

/-- R171, for every build: from a cleared accumulator no frame opens within 59 bits. -/
def Obligations.NoFrameOpensWithinSixtyBits : Prop :=
  ∀ (p : Build) (w : Work) (off : Word64) (bits : List Bool), w.st.acc = 0 → w.st.fphase = .awaitTag →
    bits.length < 60 →
      (feedBits p off bits w).st.fphase = .awaitTag ∧ (feedBits p off bits w).st.blen = w.st.blen

/-! The CRC. -/

/-- R190: the CRC register is the bit-serial one over the record's bits, most significant bit of each byte first. -/
def Obligations.CrcIsBitSerial : Prop :=
  ∀ bytes : List Byte, crc16 bytes = (recordBits bytes).foldl crcSerial 0x1D0F

/-- R192: a record with two more bytes has residue 0 exactly where they are its CRC, high byte first. -/
def Obligations.ResidueIsZeroExactlyWithItsCrc : Prop :=
  ∀ (m : List Byte) (a b : Byte),
    crc16 (m ++ [a, b]) = 0 ↔ a = (crc16 m).extractLsb' 8 8 ∧ b = (crc16 m).extractLsb' 0 8

/-- R193: flipping bits changes the residue by the CRC, with initial value 0, of the flips; and flipping any single bit
changes it. -/
def Obligations.CrcDetectsEverySingleBitFlip : Prop :=
  (∀ m f : List Byte, m.length = f.length →
    crc16 (List.zipWith (fun a b => a ^^^ b) m f) = crc16 m ^^^ f.foldl crcByte 0) ∧
  ∀ (m : List Byte) (i : Nat) (h : i < m.length) (k : Nat), k < 8 →
    crc16 (m.set i (m[i] ^^^ (1#8 <<< k))) ≠ crc16 m

/-! Binary64. -/

/-- R14: each of the four operations on finite operands (the divisor not zero) gives the exact result rounded to the
nearest binary64 value, ties to even, and the infinity of its sign from the overflow threshold on (notes, entry 17). -/
def Obligations.ArithmeticRoundsToNearestEven : Prop :=
  ∀ (a b : Binary64) (n m : Bool) (x y : Nat), Fp.unpack a = .fin n x → Fp.unpack b = .fin m y →
    RoundsToNearest (Fp.add a b) (Fp.units n x + Fp.units m y) 1 ∧
    RoundsToNearest (Fp.sub a b) (Fp.units n x - Fp.units m y) 1 ∧
    RoundsToNearest (Fp.mul a b) (Fp.units n x * Fp.units m y) Fp.one1074 ∧
    (y ≠ 0 → RoundsToNearest (Fp.div a b) (Fp.units n x * Fp.one1074 * (Fp.units m y).sign) y)

/-- R14, R146: an integer of magnitude at most 2^53 converts exactly. -/
def Obligations.SmallIntegersConvertExactly : Prop :=
  ∀ n : Int, n.natAbs ≤ 2 ^ 53 → Fp.unpack (Fp.ofInt n) = .fin (decide (n < 0)) (n.natAbs * Fp.one1074)

/-- R14: a comparison with a NaN is false, and every operation on a NaN gives a NaN, whatever its free pattern. -/
def Obligations.NansCompareFalseAndPropagate : Prop :=
  ∀ a b : Binary64, Fp.unpack a = .nan ∨ Fp.unpack b = .nan →
    Fp.le a b = false ∧ Fp.ge a b = false ∧ Fp.lt a b = false ∧
      Fp.unpack (Fp.add a b) = .nan ∧ Fp.unpack (Fp.sub a b) = .nan ∧ Fp.unpack (Fp.mul a b) = .nan ∧
        Fp.unpack (Fp.div a b) = .nan

/-! Command streams. -/

/-- R53: sample `k` of a PCM byte buffer has byte `2k` as its low byte and byte `2k+1` as its high byte. How many samples a
buffer of odd length makes is the model's choice (notes, entry 27, DESIGN CHOICE). -/
def Obligations.PcmBytesLowByteFirst : Prop :=
  ∀ bytes : List Byte, (pcm16le bytes).length = bytes.length / 2 ∧
    ∀ (k : Nat) (h : 2 * k + 1 < bytes.length),
      (pcm16le bytes)[k]? = some (bytes[2 * k + 1] ++ bytes[2 * k] : BitVec (8 + 8))

/-- R93, for every build: MANCH of `n` bits has `N` samples, the least `k` whose half-bit index is `2n` or more, and each
sample is `+a` exactly where its bit is 1 in the first half of its bit or 0 in the second. -/
def Obligations.ManchesterModulator : Prop :=
  ∀ (p : Build) (a : Nat) (bits : List Bool),
    (manch p a bits).length = manchLength p bits.length ∧
    2 * bits.length ≤ 2 * manchLength p bits.length * p.params.dataRate / p.params.fs ∧
    ∀ k, k < manchLength p bits.length →
      2 * k * p.params.dataRate / p.params.fs < 2 * bits.length ∧
      ∃ b, bits[2 * k * p.params.dataRate / p.params.fs / 2]? = some b ∧
        (manch p a bits)[k]? = some (BitVec.ofInt 16
          (if (b = true ↔ 2 * k * p.params.dataRate / p.params.fs % 2 = 0) then (a : Int) else -(a : Int)))

/-! Binary64 patterns and their order. -/

/-- R14: what a pattern of sign `n`, biased exponent `e` and fraction `f` stands for, in units of 2^-1074: an infinity or
a NaN at the greatest exponent, a subnormal or zero at exponent 0, and `(2^52 + f) * 2^(e - 1)` units elsewhere. -/
def Obligations.PatternsHaveTheirValues : Prop :=
  ∀ (n : Bool) (e : BitVec 11) (f : BitVec 52),
    Fp.unpack (BitVec.ofBool n ++ e ++ f : BitVec (1 + 11 + 52)) =
      if e.toNat = 2047 then (if f = 0 then .inf n else .nan)
      else if e.toNat = 0 then .fin n f.toNat
      else .fin n ((2 ^ 52 + f.toNat) * 2 ^ (e.toNat - 1))

/-- R14: the comparisons are the order of the values: of the exact numbers where both are finite, with -infinity below and
+infinity above every other value; `>=.` is `<=.` of the operands exchanged, and `lt` is its strict part. `fabs` clears
the sign bit, keeps every other bit, and so gives the value without its sign. -/
def Obligations.ComparisonsFollowTheValues : Prop :=
  (∀ (a b : Binary64) (n m : Bool) (x y : Nat), Fp.unpack a = .fin n x → Fp.unpack b = .fin m y →
    (Fp.le a b = true ↔ Fp.units n x ≤ Fp.units m y) ∧ (Fp.ge a b = true ↔ Fp.units m y ≤ Fp.units n x) ∧
      (Fp.lt a b = true ↔ Fp.units n x < Fp.units m y)) ∧
  (∀ (a b : Binary64) (n : Bool), Fp.unpack a = .inf n → Fp.unpack b ≠ .nan →
    (Fp.le a b = true ↔ n = true ∨ Fp.unpack b = .inf false) ∧
    (Fp.le b a = true ↔ n = false ∨ Fp.unpack b = .inf true) ∧
    (Fp.lt a b = true ↔ n = true ∧ Fp.unpack b ≠ .inf true) ∧
    (Fp.lt b a = true ↔ n = false ∧ Fp.unpack b ≠ .inf false) ∧
    (Fp.ge a b = true ↔ Fp.le b a = true) ∧ (Fp.ge b a = true ↔ Fp.le a b = true)) ∧
  ∀ a : Binary64, (Fp.fabs a).msb = false ∧ (Fp.fabs a).setWidth 63 = a.setWidth 63 ∧
    Fp.unpack (Fp.fabs a) = match Fp.unpack a with
      | .nan => .nan
      | .inf _ => .inf false
      | .fin _ x => .fin false x

/-! The cursor equation of R35. -/

/-- R35, R164, R166: in a state with a pending frame the cursor equation as R35 writes it, with `rem/8` rounded down,
holds exactly where the tail bits to come are whole bytes (right after frame open and after every append), and in
between it is short by the one byte that is being received. That the equation fails there is the model's reading of
R166 against R35 (notes, entry 11, DEDUCED). -/
def Obligations.CursorEquationHoldsAtWholeBytes : Prop :=
  ∀ s : State, FrameInv s → s.fphase = .consumeTail →
    (s.wcur.toNat + s.rem.toNat / 8 = s.blen.toNat ↔ s.rem.toNat % 8 = 0) ∧
      (s.rem.toNat % 8 ≠ 0 → s.wcur.toNat + s.rem.toNat / 8 + 1 = s.blen.toNat)
end

