-- ==== Sys2Proof/Laws/Binary64.lean ====
section
/-!
SUPPORT. What binary64 rounding can do, said once: a pattern's magnitude rises strictly with the pattern, and rounding
lies on the right side of every representable magnitude. Order, exactness and sign facts follow from these.
-/

namespace Sys2Proof.Fp

/-- The magnitude of the pattern that `roundRatio` builds from an exponent `k` and a significand `q`. -/
theorem magnitude_pattern {k q : Nat} (hq : q ≤ 2 ^ 53) (hk : k = 0 ∨ 2 ^ 52 ≤ q) :
    magnitude (k * 2 ^ 52 + q) = q * 2 ^ k := by
  unfold magnitude
  norm_num at hq hk ⊢
  rcases hk with rfl | hk
  · split
    · omega
    · rcases Nat.lt_or_ge q 9007199254740992 with h | h
      · rw [show (0 * 4503599627370496 + q) / 4503599627370496 = 1 by omega]
        simp; omega
      · have : q = 9007199254740992 := by omega
        subst this; norm_num
  · rw [if_neg (by omega)]
    rcases Nat.lt_or_ge q 9007199254740992 with h | h
    · rw [show (k * 4503599627370496 + q) / 4503599627370496 - 1 = k by omega,
        show 4503599627370496 + q % 4503599627370496 = q by omega]
    · have : q = 9007199254740992 := by omega
      subst this
      rw [show (k * 4503599627370496 + 9007199254740992) / 4503599627370496 - 1 = k + 1 by omega, pow_succ]
      norm_num
      ring

/-- Every pattern has an exponent and a significand. -/
theorem exists_pattern (n : Nat) :
    ∃ k q, n = k * 2 ^ 52 + q ∧ q + 1 ≤ 2 ^ 53 ∧ (k = 0 ∨ 2 ^ 52 ≤ q) := by
  rcases Nat.lt_or_ge n (2 ^ 53) with h | h
  · exact ⟨0, n, by omega, by omega, .inl rfl⟩
  · exact ⟨n / 2 ^ 52 - 1, 2 ^ 52 + n % 2 ^ 52, by omega, by omega, .inr (by omega)⟩

theorem magnitude_strictMono : StrictMono magnitude := by
  refine strictMono_nat_of_lt_succ fun n => ?_
  obtain ⟨k, q, rfl, hq, hk⟩ := exists_pattern n
  rw [magnitude_pattern (by omega) hk, show k * 2 ^ 52 + q + 1 = k * 2 ^ 52 + (q + 1) by omega,
    magnitude_pattern hq (by omega)]
  exact Nat.mul_lt_mul_of_pos_right (Nat.lt_succ_self q) (by positivity)

/-- The exponent that `roundRatio` chooses leaves a significand of at most 53 bits, and of exactly 53 above exponent 0. -/
theorem significand_bounds (n : Nat) :
    n / 2 ^ (Nat.log2 n - 52) + 1 ≤ 2 ^ 53 ∧ (Nat.log2 n - 52 = 0 ∨ 2 ^ 52 ≤ n / 2 ^ (Nat.log2 n - 52)) := by
  rcases Nat.eq_zero_or_pos n with rfl | hn
  · norm_num
  have h1 : 2 ^ Nat.log2 n ≤ n := Nat.log2_self_le hn.ne'
  have h2 : n < 2 ^ (Nat.log2 n + 1) := Nat.lt_log2_self
  generalize Nat.log2 n = l at h1 h2
  rcases Nat.lt_or_ge l 53 with h | h
  · have : 2 ^ (l + 1) ≤ 2 ^ 53 := Nat.pow_le_pow_right (by norm_num) (by omega)
    rw [show l - 52 = 0 by omega]
    simp; omega
  · obtain ⟨k, rfl⟩ : ∃ k, l = k + 52 := ⟨l - 52, by omega⟩
    rw [show k + 52 - 52 = k by omega]
    refine ⟨?_, .inr ?_⟩
    · exact (Nat.div_lt_iff_lt_mul (by positivity)).mpr (by rw [← pow_add, show 53 + k = k + 52 + 1 by omega]; exact h2)
    · rw [Nat.le_div_iff_mul_le (by positivity), ← pow_add, add_comm]; exact h1

/-- What rounding does: with `P` the greatest pattern whose magnitude is at most the ratio, it gives `P` or, where the
ratio is no representable magnitude, `P + 1`; the choice is by the distance, ties to the even pattern. -/
theorem roundRatio_cases (num den : Nat) (hden : 0 < den) :
    ∃ P, den * magnitude P ≤ num ∧ num < den * magnitude (P + 1) ∧
      (roundRatio num den = min P infBits ∧
          (2 * num < den * (magnitude P + magnitude (P + 1)) ∨
            2 * num = den * (magnitude P + magnitude (P + 1)) ∧ P % 2 = 0) ∨
        roundRatio num den = min (P + 1) infBits ∧
          (den * (magnitude P + magnitude (P + 1)) < 2 * num ∨
            2 * num = den * (magnitude P + magnitude (P + 1)) ∧ P % 2 = 1)) := by
  unfold roundRatio
  dsimp only
  obtain ⟨hq, hk⟩ := significand_bounds (num / den)
  rw [Nat.div_div_eq_div_mul] at hq hk
  set k := Nat.log2 (num / den) - 52
  set sc := den * 2 ^ k with hsc
  set q := num / sc with hqd
  have hsc0 : 0 < sc := by positivity
  have hm : sc * q + num % sc = num := Nat.div_add_mod num sc
  have hlt : num % sc < sc := Nat.mod_lt _ hsc0
  set r := num % sc
  have e0 : den * magnitude (k * 2 ^ 52 + q) = sc * q := by
    rw [magnitude_pattern (by omega) hk, hsc]; ring
  have e1 : den * magnitude (k * 2 ^ 52 + q + 1) = sc * q + sc := by
    rw [show k * 2 ^ 52 + q + 1 = k * 2 ^ 52 + (q + 1) by omega, magnitude_pattern hq (by omega), hsc]; ring
  refine ⟨k * 2 ^ 52 + q, by omega, by omega, ?_⟩
  rw [mul_add, e0, e1]
  split
  · refine .inr ⟨by rw [← add_assoc], ?_⟩
    omega
  · exact .inl ⟨rfl, by omega⟩

theorem roundRatio_le_infBits (num den : Nat) : roundRatio num den ≤ infBits := by
  unfold roundRatio
  exact Nat.min_le_right _ _

/-- A ratio at most a representable magnitude rounds to at most its pattern. -/
theorem roundRatio_le {num den c : Nat} (hden : 0 < den) (h : num ≤ den * magnitude c) : roundRatio num den ≤ c := by
  obtain ⟨P, h1, h2, h3⟩ := roundRatio_cases num den hden
  have hP : P ≤ c := magnitude_strictMono.le_iff_le.mp (Nat.le_of_mul_le_mul_left (h1.trans h) hden)
  have hlt := magnitude_strictMono (Nat.lt_succ_self P)
  rcases h3 with ⟨h3, -⟩ | ⟨h3, h4⟩
  · rw [h3]; exact (Nat.min_le_left _ _).trans hP
  · have : P ≠ c := by
      rintro rfl
      have : den * magnitude P < den * magnitude (P + 1) := Nat.mul_lt_mul_of_pos_left hlt hden
      rw [mul_add] at h4
      omega
    rw [h3]; exact (Nat.min_le_left _ _).trans (by omega)

/-- A ratio at least a representable magnitude rounds to at least its pattern. -/
theorem le_roundRatio {num den c : Nat} (hden : 0 < den) (hc : c ≤ infBits) (h : den * magnitude c ≤ num) :
    c ≤ roundRatio num den := by
  obtain ⟨P, h1, h2, h3⟩ := roundRatio_cases num den hden
  have hP : c < P + 1 := magnitude_strictMono.lt_iff_lt.mp (Nat.lt_of_mul_lt_mul_left (h.trans_lt h2))
  rcases h3 with ⟨h3, -⟩ | ⟨h3, -⟩ <;> rw [h3] <;> exact Nat.le_min.mpr ⟨by omega, hc⟩

/-- A representable magnitude rounds to itself. -/
theorem roundRatio_exact {num den c : Nat} (hden : 0 < den) (hc : c ≤ infBits) (h : num = den * magnitude c) :
    roundRatio num den = c :=
  Nat.le_antisymm (roundRatio_le hden h.le) (le_roundRatio hden hc h.ge)

@[simp] theorem roundRatio_zero (den : Nat) : roundRatio 0 den = 0 := by
  unfold roundRatio
  norm_num [infBits]

/-- Rounding keeps the order of ratios. -/
theorem roundRatio_mono {n₁ d₁ n₂ d₂ : Nat} (h₁ : 0 < d₁) (h₂ : 0 < d₂) (h : n₁ * d₂ ≤ n₂ * d₁) :
    roundRatio n₁ d₁ ≤ roundRatio n₂ d₂ := by
  obtain ⟨P, a1, a2, a3⟩ := roundRatio_cases n₁ d₁ h₁
  obtain ⟨Q, b1, b2, b3⟩ := roundRatio_cases n₂ d₂ h₂
  have hPQ : P ≤ Q := by
    have : magnitude P < magnitude (Q + 1) := by
      by_contra hc
      have c1 : d₁ * magnitude (Q + 1) ≤ n₁ := (Nat.mul_le_mul_left _ (not_lt.mp hc)).trans a1
      have c2 := Nat.mul_lt_mul_of_pos_right b2 h₁
      have c3 := Nat.mul_le_mul_right d₂ c1
      nlinarith
    exact Nat.lt_succ_iff.mp (magnitude_strictMono.lt_iff_lt.mp this)
  rcases hPQ.lt_or_eq with hlt | rfl
  · have l1 : roundRatio n₁ d₁ ≤ min (P + 1) infBits := by
      rcases a3 with ⟨a, -⟩ | ⟨a, -⟩ <;> rw [a]
      exact min_le_min (Nat.le_succ P) le_rfl
    have l2 : min Q infBits ≤ roundRatio n₂ d₂ := by
      rcases b3 with ⟨b, -⟩ | ⟨b, -⟩ <;> rw [b]
      exact min_le_min (Nat.le_succ Q) le_rfl
    exact l1.trans ((min_le_min hlt le_rfl).trans l2)
  · rcases b3 with ⟨b, hb⟩ | ⟨b, -⟩
    · rcases a3 with ⟨a, -⟩ | ⟨a, ha⟩
      · rw [a, b]
      · exfalso
        generalize magnitude P + magnitude (P + 1) = m at ha hb
        have k1 : 2 * n₁ * d₂ ≤ 2 * n₂ * d₁ := by nlinarith
        have hm : d₁ * m ≤ 2 * n₁ := by omega
        have hm2 : 2 * n₂ ≤ d₂ * m := by omega
        have e1 := Nat.mul_le_mul_right d₂ hm
        have e2 := Nat.mul_le_mul_right d₁ hm2
        have e3 : d₁ * m * d₂ = d₂ * m * d₁ := by ring
        have f1 : 2 * n₁ * d₂ = d₁ * m * d₂ := by omega
        have f2 : 2 * n₂ * d₁ = d₂ * m * d₁ := by omega
        have g1 : 2 * n₁ = d₁ * m := Nat.eq_of_mul_eq_mul_right h₂ f1
        have g2 : 2 * n₂ = d₂ * m := Nat.eq_of_mul_eq_mul_right h₁ f2
        omega
    · rw [b]
      rcases a3 with ⟨a, -⟩ | ⟨a, -⟩ <;> rw [a]
      exact min_le_min (Nat.le_succ P) le_rfl

/-! Patterns and what they stand for. -/

theorem toNat_signed {bits : Nat} (neg : Bool) (h : bits ≤ infBits) :
    (signed neg bits).toNat = bits + if neg then 2 ^ 63 else 0 := by
  unfold infBits at h
  unfold signed
  rw [BitVec.toNat_ofNat]
  cases neg <;> simp <;> omega

theorem msb_signed {bits : Nat} (neg : Bool) (h : bits ≤ infBits) : (signed neg bits).msb = neg := by
  rw [BitVec.msb_eq_decide, toNat_signed neg h]
  unfold infBits at h
  cases neg
  · simp; omega
  · simp

theorem mod_signed {bits : Nat} (neg : Bool) (h : bits ≤ infBits) : (signed neg bits).toNat % 2 ^ 63 = bits := by
  rw [toNat_signed neg h]
  unfold infBits at h
  cases neg <;> simp <;> omega

/-- A pattern below the infinity stands for its magnitude. -/
theorem unpack_signed {bits : Nat} (neg : Bool) (h : bits < infBits) :
    unpack (signed neg bits) = .fin neg (magnitude bits) := by
  simp only [unpack, mod_signed neg h.le, msb_signed neg h.le, if_pos h]

theorem unpack_signed_inf (neg : Bool) : unpack (signed neg infBits) = .inf neg := by
  simp only [unpack, mod_signed neg le_rfl, msb_signed neg le_rfl, lt_irrefl, if_false, if_true]

/-- The infinity's magnitude stands above every finite one, at `2^2098` units. -/
theorem magnitude_infBits : magnitude infBits = infUnits := by
  have h := magnitude_pattern (k := 2046) (q := 2 ^ 52) (by norm_num) (.inr le_rfl)
  have e : infBits = 2046 * 2 ^ 52 + 2 ^ 52 := by unfold infBits; norm_num
  have u : infUnits = 2 ^ (52 + 2046) := by
    unfold infUnits; exact congrArg (fun n => 2 ^ n) (by norm_num : 2098 = 52 + 2046)
  rw [e, h, u]
  exact (pow_add 2 52 2046).symm

/-- On the scale of `key`, a signed pattern up to the infinity is its magnitude with its sign. -/
theorem key_signed {bits : Nat} (neg : Bool) (h : bits ≤ infBits) :
    (unpack (signed neg bits)).key = some (units neg (magnitude bits)) := by
  rcases h.lt_or_eq with h | rfl
  · rw [unpack_signed neg h]; rfl
  · rw [unpack_signed_inf, magnitude_infBits]; rfl

/-- A value that is no NaN has a sign and a magnitude pattern. -/
theorem unpack_cases (a : Binary64) :
    unpack a = .nan ∨ ∃ neg bits, bits ≤ infBits ∧ a = signed neg bits := by
  by_cases h : a.toNat % 2 ^ 63 ≤ infBits
  · refine .inr ⟨a.msb, a.toNat % 2 ^ 63, h, BitVec.eq_of_toNat_eq ?_⟩
    rw [toNat_signed _ h, BitVec.msb_eq_decide]
    have := a.isLt
    rcases Nat.lt_or_ge a.toNat (2 ^ 63) with h' | h'
    · rw [decide_eq_false (by simpa using h')]; simp; omega
    · rw [decide_eq_true (by simpa using h')]; simp; omega
  · left
    simp only [unpack]
    rw [if_neg (by omega), if_neg (by omega)]

/-- A quiet NaN is a NaN whatever its free pattern is. -/
theorem unpack_quietNan (op : FpOp) (a b : Binary64) : unpack (quietNan op a b) = .nan := by
  unfold quietNan
  generalize Config.nanPattern op a b = x
  have h : (0x7FF8000000000000 : Nat) ≤ (x ||| 0x7FF8000000000000).toNat % 2 ^ 63 := by
    have : (x ||| 0x7FF8000000000000).toNat % 2 ^ 63 = (x.toNat % 2 ^ 63) ||| 0x7FF8000000000000 := by
      rw [BitVec.toNat_or, Nat.or_mod_two_pow]
      rfl
    rw [this]
    exact Nat.right_le_or
  simp only [unpack]
  unfold infBits
  rw [if_neg (by omega), if_neg (by omega)]

/-! Sums and differences on the scale of units. -/

/-- An exact number of units after rounding, on the same scale. -/
def roundedUnits (v : Int) : Int :=
  units (decide (v < 0)) (magnitude (roundRatio v.natAbs 1))

@[simp] theorem magnitude_zero : magnitude 0 = 0 := by
  simp [magnitude]

@[simp] theorem roundedUnits_zero : roundedUnits 0 = 0 := by
  simp [roundedUnits, units]

theorem key_ofUnits (v : Int) : (unpack (ofUnits v)).key = some (roundedUnits v) :=
  key_signed _ (roundRatio_le_infBits _ _)

theorem key_signed_zero (neg : Bool) : (unpack (signed neg 0)).key = some 0 := by
  rw [key_signed neg (Nat.zero_le _)]
  cases neg <;> simp [units]

theorem units_negate (neg : Bool) (m : Nat) : units (!neg) m = -units neg m := by
  cases neg <;> simp [units]

/-- A finite sum is the exact sum, rounded once. -/
theorem key_add {a b : Binary64} {n m : Bool} {x y : Nat} (ha : unpack a = .fin n x) (hb : unpack b = .fin m y) :
    (unpack (add a b)).key = some (roundedUnits (units n x + units m y)) := by
  unfold add
  rw [ha, hb]
  simp only [addValue]
  split
  · next h => rw [h, Option.getD_some, key_signed_zero, roundedUnits_zero]
  · rw [Option.getD_some, key_ofUnits]

/-- A finite difference is the exact difference, rounded once. -/
theorem key_sub {a b : Binary64} {n m : Bool} {x y : Nat} (ha : unpack a = .fin n x) (hb : unpack b = .fin m y) :
    (unpack (sub a b)).key = some (roundedUnits (units n x - units m y)) := by
  unfold sub
  rw [ha, hb]
  simp only [addValue, Value.negate]
  rw [units_negate, ← sub_eq_add_neg]
  split
  · next h => rw [h, Option.getD_some, key_signed_zero, roundedUnits_zero]
  · rw [Option.getD_some, key_ofUnits]

/-- Rounding keeps the order of exact numbers of units. -/
theorem roundedUnits_mono : Monotone roundedUnits := by
  intro u v h
  have key : ∀ {p q : Nat}, p ≤ q → magnitude (roundRatio p 1) ≤ magnitude (roundRatio q 1) := fun h =>
    magnitude_strictMono.monotone (roundRatio_mono one_pos one_pos (by omega))
  unfold roundedUnits units
  rcases lt_or_ge u 0 with hu | hu <;> rcases lt_or_ge v 0 with hv | hv
  · have := key (p := v.natAbs) (q := u.natAbs) (by omega)
    simp [hu, hv]; exact this
  · simp [hu, not_lt.mpr hv]
  · omega
  · have := key (p := u.natAbs) (q := v.natAbs) (by omega)
    simp [not_lt.mpr hu, not_lt.mpr hv]; exact this

/-- A representable number of units rounds to itself. -/
theorem roundedUnits_exact {c : Nat} (neg : Bool) (hc : c ≤ infBits) :
    roundedUnits (units neg (magnitude c)) = units neg (magnitude c) := by
  rcases Nat.eq_zero_or_pos c with rfl | h
  · cases neg <;> simp [units]
  · have hp : 0 < magnitude c := by simpa using magnitude_strictMono h
    have hr : roundRatio (magnitude c) 1 = c := roundRatio_exact one_pos hc (one_mul _).symm
    unfold roundedUnits units
    cases neg
    · simp [hr]
    · simp [hp, hr]

/-- A finite value stands for the magnitude of its pattern, below the infinity's. -/
theorem finite_magnitude {a : Binary64} {n : Bool} {x : Nat} (h : unpack a = .fin n x) :
    ∃ c, c < infBits ∧ x = magnitude c ∧ a = signed n c := by
  rcases unpack_cases a with h' | ⟨neg, bits, hb, rfl⟩
  · rw [h'] at h; cases h
  · rcases hb.lt_or_eq with hb | rfl
    · rw [unpack_signed neg hb] at h
      cases h
      exact ⟨bits, hb, rfl, rfl⟩
    · rw [unpack_signed_inf] at h; cases h

/-- `le` on the scale of `key`. -/
theorem le_iff {a b : Binary64} :
    le a b = true ↔ ∃ x y, (unpack a).key = some x ∧ (unpack b).key = some y ∧ x ≤ y := by
  unfold le
  cases (unpack a).key <;> cases (unpack b).key <;> simp

/-- `lt` on the scale of `key`. -/
theorem lt_iff {a b : Binary64} :
    lt a b = true ↔ ∃ x y, (unpack a).key = some x ∧ (unpack b).key = some y ∧ x < y := by
  unfold lt
  cases (unpack a).key <;> cases (unpack b).key <;> simp

/-- `fabs` keeps a value's magnitude. -/
theorem key_fabs (a : Binary64) : (unpack (fabs a)).key = ((unpack a).key).map (fun v => |v|) := by
  have hn : (fabs a).toNat = a.toNat % 2 ^ 63 := by
    unfold fabs
    rw [BitVec.toNat_and]
    exact Nat.and_two_pow_sub_one_eq_mod a.toNat 63
  have hm : (fabs a).msb = false := by
    rw [BitVec.msb_eq_decide, hn]
    simp
    omega
  simp only [unpack, hn, hm, Nat.mod_mod]
  split
  · cases a.msb <;> simp [Value.key, units]
  · split
    · cases a.msb <;> simp [Value.key, units]
    · rfl

end Sys2Proof.Fp
end

