-- ==== Sys2Proof/Laws/State.lean ====
section
/-!
SUPPORT. One lemma per field per update, true by rfl: what opening and closing a step, raising an event, freeing a frame,
an idle step, a reset and a placed command leave in each field. Later proofs cite these and unfold no record update.
-/

namespace Sys2Proof.Machine

/-! Opening a step. -/

@[simp] theorem openStep_st (op : BitVec 2) (s : State) :
    (openStep op s).st = s := rfl

@[simp] theorem openStep_op (op : BitVec 2) (s : State) :
    (openStep op s).resp.op = op := rfl

@[simp] theorem openStep_ill (op : BitVec 2) (s : State) :
    (openStep op s).resp.ill = Response.zero.ill := rfl

@[simp] theorem openStep_idx (op : BitVec 2) (s : State) :
    (openStep op s).resp.idx = s.inSampleCount := rfl

@[simp] theorem openStep_sev (op : BitVec 2) (s : State) :
    (openStep op s).resp.sev = Response.zero.sev := rfl

@[simp] theorem openStep_bitValid (op : BitVec 2) (s : State) :
    (openStep op s).resp.bitValid = Response.zero.bitValid := rfl

@[simp] theorem openStep_bit (op : BitVec 2) (s : State) :
    (openStep op s).resp.bit = Response.zero.bit := rfl

@[simp] theorem openStep_disc (op : BitVec 2) (s : State) :
    (openStep op s).resp.disc = Response.zero.disc := rfl

@[simp] theorem openStep_fev (op : BitVec 2) (s : State) :
    (openStep op s).resp.fev = Response.zero.fev := rfl

@[simp] theorem openStep_crc (op : BitVec 2) (s : State) :
    (openStep op s).resp.crc = Response.zero.crc := rfl

@[simp] theorem openStep_descValid (op : BitVec 2) (s : State) :
    (openStep op s).resp.descValid = Response.zero.descValid := rfl

@[simp] theorem openStep_descLen (op : BitVec 2) (s : State) :
    (openStep op s).resp.descLen = Response.zero.descLen := rfl

@[simp] theorem openStep_descData (op : BitVec 2) (s : State) :
    (openStep op s).resp.descData = Response.zero.descData := rfl

@[simp] theorem openStep_tsBlock (op : BitVec 2) (s : State) :
    (openStep op s).resp.tsBlock = Response.zero.tsBlock := rfl

@[simp] theorem openStep_tsOff (op : BitVec 2) (s : State) :
    (openStep op s).resp.tsOff = Response.zero.tsOff := rfl

@[simp] theorem openStep_phase (op : BitVec 2) (s : State) :
    (openStep op s).resp.phase = Response.zero.phase := rfl

@[simp] theorem openStep_fphase (op : BitVec 2) (s : State) :
    (openStep op s).resp.fphase = Response.zero.fphase := rfl

/-! Closing a step. -/

@[simp] theorem closeStep_phase (w : Work) :
    (closeStep w).phase = w.st.phase := rfl

@[simp] theorem closeStep_d (w : Work) :
    (closeStep w).d = w.st.d := rfl

@[simp] theorem closeStep_next (w : Work) :
    (closeStep w).next = w.st.next := rfl

@[simp] theorem closeStep_lastSample (w : Work) :
    (closeStep w).lastSample = w.st.lastSample := rfl

@[simp] theorem closeStep_inSampleCount (w : Work) :
    (closeStep w).inSampleCount = w.st.inSampleCount := rfl

@[simp] theorem closeStep_blockTs (w : Work) :
    (closeStep w).blockTs = w.st.blockTs := rfl

@[simp] theorem closeStep_blockOffset (w : Work) :
    (closeStep w).blockOffset = w.st.blockOffset := rfl

@[simp] theorem closeStep_acc (w : Work) :
    (closeStep w).acc = w.st.acc := rfl

@[simp] theorem closeStep_fphase (w : Work) :
    (closeStep w).fphase = w.st.fphase := rfl

@[simp] theorem closeStep_buf (w : Work) :
    (closeStep w).buf = w.st.buf := rfl

@[simp] theorem closeStep_blen (w : Work) :
    (closeStep w).blen = w.st.blen := rfl

@[simp] theorem closeStep_wcur (w : Work) :
    (closeStep w).wcur = w.st.wcur := rfl

@[simp] theorem closeStep_rem (w : Work) :
    (closeStep w).rem = w.st.rem := rfl

@[simp] theorem closeStep_frameTsBlock (w : Work) :
    (closeStep w).frameTsBlock = w.st.frameTsBlock := rfl

@[simp] theorem closeStep_frameTsOff (w : Work) :
    (closeStep w).frameTsOff = w.st.frameTsOff := rfl

@[simp] theorem closeStep_pending (w : Work) :
    (closeStep w).pending = w.st.pending := rfl

@[simp] theorem closeStep_out (w : Work) :
    (closeStep w).out = some { w.resp with phase := w.st.phase, fphase := w.st.fphase } := rfl

/-! Raising an event writes its code and nothing else (60_exceptions.md R210). -/

@[simp] theorem raiseSync_st (e : SyncEvent) (w : Work) :
    (raiseSync e w).st = w.st := rfl

@[simp] theorem raiseSync_op (e : SyncEvent) (w : Work) :
    (raiseSync e w).resp.op = w.resp.op := rfl

@[simp] theorem raiseSync_ill (e : SyncEvent) (w : Work) :
    (raiseSync e w).resp.ill = w.resp.ill := rfl

@[simp] theorem raiseSync_idx (e : SyncEvent) (w : Work) :
    (raiseSync e w).resp.idx = w.resp.idx := rfl

@[simp] theorem raiseSync_sev (e : SyncEvent) (w : Work) :
    (raiseSync e w).resp.sev = e := rfl

@[simp] theorem raiseSync_bitValid (e : SyncEvent) (w : Work) :
    (raiseSync e w).resp.bitValid = w.resp.bitValid := rfl

@[simp] theorem raiseSync_bit (e : SyncEvent) (w : Work) :
    (raiseSync e w).resp.bit = w.resp.bit := rfl

@[simp] theorem raiseSync_disc (e : SyncEvent) (w : Work) :
    (raiseSync e w).resp.disc = w.resp.disc := rfl

@[simp] theorem raiseSync_fev (e : SyncEvent) (w : Work) :
    (raiseSync e w).resp.fev = w.resp.fev := rfl

@[simp] theorem raiseSync_crc (e : SyncEvent) (w : Work) :
    (raiseSync e w).resp.crc = w.resp.crc := rfl

@[simp] theorem raiseSync_descValid (e : SyncEvent) (w : Work) :
    (raiseSync e w).resp.descValid = w.resp.descValid := rfl

@[simp] theorem raiseSync_descLen (e : SyncEvent) (w : Work) :
    (raiseSync e w).resp.descLen = w.resp.descLen := rfl

@[simp] theorem raiseSync_descData (e : SyncEvent) (w : Work) :
    (raiseSync e w).resp.descData = w.resp.descData := rfl

@[simp] theorem raiseSync_tsBlock (e : SyncEvent) (w : Work) :
    (raiseSync e w).resp.tsBlock = w.resp.tsBlock := rfl

@[simp] theorem raiseSync_tsOff (e : SyncEvent) (w : Work) :
    (raiseSync e w).resp.tsOff = w.resp.tsOff := rfl

@[simp] theorem raiseSync_phase (e : SyncEvent) (w : Work) :
    (raiseSync e w).resp.phase = w.resp.phase := rfl

@[simp] theorem raiseSync_fphase (e : SyncEvent) (w : Work) :
    (raiseSync e w).resp.fphase = w.resp.fphase := rfl

@[simp] theorem raiseFramer_st (e : FramerEvent) (w : Work) :
    (raiseFramer e w).st = w.st := rfl

@[simp] theorem raiseFramer_op (e : FramerEvent) (w : Work) :
    (raiseFramer e w).resp.op = w.resp.op := rfl

@[simp] theorem raiseFramer_ill (e : FramerEvent) (w : Work) :
    (raiseFramer e w).resp.ill = w.resp.ill := rfl

@[simp] theorem raiseFramer_idx (e : FramerEvent) (w : Work) :
    (raiseFramer e w).resp.idx = w.resp.idx := rfl

@[simp] theorem raiseFramer_sev (e : FramerEvent) (w : Work) :
    (raiseFramer e w).resp.sev = w.resp.sev := rfl

@[simp] theorem raiseFramer_bitValid (e : FramerEvent) (w : Work) :
    (raiseFramer e w).resp.bitValid = w.resp.bitValid := rfl

@[simp] theorem raiseFramer_bit (e : FramerEvent) (w : Work) :
    (raiseFramer e w).resp.bit = w.resp.bit := rfl

@[simp] theorem raiseFramer_disc (e : FramerEvent) (w : Work) :
    (raiseFramer e w).resp.disc = w.resp.disc := rfl

@[simp] theorem raiseFramer_fev (e : FramerEvent) (w : Work) :
    (raiseFramer e w).resp.fev = e := rfl

@[simp] theorem raiseFramer_crc (e : FramerEvent) (w : Work) :
    (raiseFramer e w).resp.crc = w.resp.crc := rfl

@[simp] theorem raiseFramer_descValid (e : FramerEvent) (w : Work) :
    (raiseFramer e w).resp.descValid = w.resp.descValid := rfl

@[simp] theorem raiseFramer_descLen (e : FramerEvent) (w : Work) :
    (raiseFramer e w).resp.descLen = w.resp.descLen := rfl

@[simp] theorem raiseFramer_descData (e : FramerEvent) (w : Work) :
    (raiseFramer e w).resp.descData = w.resp.descData := rfl

@[simp] theorem raiseFramer_tsBlock (e : FramerEvent) (w : Work) :
    (raiseFramer e w).resp.tsBlock = w.resp.tsBlock := rfl

@[simp] theorem raiseFramer_tsOff (e : FramerEvent) (w : Work) :
    (raiseFramer e w).resp.tsOff = w.resp.tsOff := rfl

@[simp] theorem raiseFramer_phase (e : FramerEvent) (w : Work) :
    (raiseFramer e w).resp.phase = w.resp.phase := rfl

@[simp] theorem raiseFramer_fphase (e : FramerEvent) (w : Work) :
    (raiseFramer e w).resp.fphase = w.resp.fphase := rfl

@[simp] theorem raiseIll_st (w : Work) :
    (raiseIll w).st = w.st := rfl

@[simp] theorem raiseIll_op (w : Work) :
    (raiseIll w).resp.op = w.resp.op := rfl

@[simp] theorem raiseIll_ill (w : Work) :
    (raiseIll w).resp.ill = true := rfl

@[simp] theorem raiseIll_idx (w : Work) :
    (raiseIll w).resp.idx = w.resp.idx := rfl

@[simp] theorem raiseIll_sev (w : Work) :
    (raiseIll w).resp.sev = w.resp.sev := rfl

@[simp] theorem raiseIll_bitValid (w : Work) :
    (raiseIll w).resp.bitValid = w.resp.bitValid := rfl

@[simp] theorem raiseIll_bit (w : Work) :
    (raiseIll w).resp.bit = w.resp.bit := rfl

@[simp] theorem raiseIll_disc (w : Work) :
    (raiseIll w).resp.disc = w.resp.disc := rfl

@[simp] theorem raiseIll_fev (w : Work) :
    (raiseIll w).resp.fev = w.resp.fev := rfl

@[simp] theorem raiseIll_crc (w : Work) :
    (raiseIll w).resp.crc = w.resp.crc := rfl

@[simp] theorem raiseIll_descValid (w : Work) :
    (raiseIll w).resp.descValid = w.resp.descValid := rfl

@[simp] theorem raiseIll_descLen (w : Work) :
    (raiseIll w).resp.descLen = w.resp.descLen := rfl

@[simp] theorem raiseIll_descData (w : Work) :
    (raiseIll w).resp.descData = w.resp.descData := rfl

@[simp] theorem raiseIll_tsBlock (w : Work) :
    (raiseIll w).resp.tsBlock = w.resp.tsBlock := rfl

@[simp] theorem raiseIll_tsOff (w : Work) :
    (raiseIll w).resp.tsOff = w.resp.tsOff := rfl

@[simp] theorem raiseIll_phase (w : Work) :
    (raiseIll w).resp.phase = w.resp.phase := rfl

@[simp] theorem raiseIll_fphase (w : Work) :
    (raiseIll w).resp.fphase = w.resp.fphase := rfl

/-! Freeing a frame. -/

@[simp] theorem freeFrame_resp (w : Work) :
    (freeFrame w).resp = w.resp := rfl

@[simp] theorem freeFrame_phase (w : Work) :
    (freeFrame w).st.phase = w.st.phase := rfl

@[simp] theorem freeFrame_d (w : Work) :
    (freeFrame w).st.d = w.st.d := rfl

@[simp] theorem freeFrame_next (w : Work) :
    (freeFrame w).st.next = w.st.next := rfl

@[simp] theorem freeFrame_lastSample (w : Work) :
    (freeFrame w).st.lastSample = w.st.lastSample := rfl

@[simp] theorem freeFrame_inSampleCount (w : Work) :
    (freeFrame w).st.inSampleCount = w.st.inSampleCount := rfl

@[simp] theorem freeFrame_blockTs (w : Work) :
    (freeFrame w).st.blockTs = w.st.blockTs := rfl

@[simp] theorem freeFrame_blockOffset (w : Work) :
    (freeFrame w).st.blockOffset = w.st.blockOffset := rfl

@[simp] theorem freeFrame_acc (w : Work) :
    (freeFrame w).st.acc = w.st.acc := rfl

@[simp] theorem freeFrame_fphase (w : Work) :
    (freeFrame w).st.fphase = .awaitTag := rfl

@[simp] theorem freeFrame_buf (w : Work) :
    (freeFrame w).st.buf = w.st.buf := rfl

@[simp] theorem freeFrame_blen (w : Work) :
    (freeFrame w).st.blen = 0 := rfl

@[simp] theorem freeFrame_wcur (w : Work) :
    (freeFrame w).st.wcur = 0 := rfl

@[simp] theorem freeFrame_rem (w : Work) :
    (freeFrame w).st.rem = w.st.rem := rfl

@[simp] theorem freeFrame_frameTsBlock (w : Work) :
    (freeFrame w).st.frameTsBlock = w.st.frameTsBlock := rfl

@[simp] theorem freeFrame_frameTsOff (w : Work) :
    (freeFrame w).st.frameTsOff = w.st.frameTsOff := rfl

@[simp] theorem freeFrame_pending (w : Work) :
    (freeFrame w).st.pending = w.st.pending := rfl

@[simp] theorem freeFrame_out (w : Work) :
    (freeFrame w).st.out = w.st.out := rfl

/-! A discontinuity. -/

@[simp] theorem discontinuity_phase (w : Work) :
    (discontinuity w).st.phase = w.st.phase := rfl

@[simp] theorem discontinuity_d (w : Work) :
    (discontinuity w).st.d = w.st.d := rfl

@[simp] theorem discontinuity_next (w : Work) :
    (discontinuity w).st.next = w.st.next := rfl

@[simp] theorem discontinuity_lastSample (w : Work) :
    (discontinuity w).st.lastSample = w.st.lastSample := rfl

@[simp] theorem discontinuity_inSampleCount (w : Work) :
    (discontinuity w).st.inSampleCount = w.st.inSampleCount := rfl

@[simp] theorem discontinuity_blockTs (w : Work) :
    (discontinuity w).st.blockTs = w.st.blockTs := rfl

@[simp] theorem discontinuity_blockOffset (w : Work) :
    (discontinuity w).st.blockOffset = w.st.blockOffset := rfl

@[simp] theorem discontinuity_acc (w : Work) :
    (discontinuity w).st.acc = 0 := rfl

@[simp] theorem discontinuity_fphase (w : Work) :
    (discontinuity w).st.fphase = .awaitTag := rfl

@[simp] theorem discontinuity_buf (w : Work) :
    (discontinuity w).st.buf = w.st.buf := rfl

@[simp] theorem discontinuity_blen (w : Work) :
    (discontinuity w).st.blen = 0 := rfl

@[simp] theorem discontinuity_wcur (w : Work) :
    (discontinuity w).st.wcur = 0 := rfl

@[simp] theorem discontinuity_rem (w : Work) :
    (discontinuity w).st.rem = 0 := rfl

@[simp] theorem discontinuity_frameTsBlock (w : Work) :
    (discontinuity w).st.frameTsBlock = w.st.frameTsBlock := rfl

@[simp] theorem discontinuity_frameTsOff (w : Work) :
    (discontinuity w).st.frameTsOff = w.st.frameTsOff := rfl

@[simp] theorem discontinuity_pending (w : Work) :
    (discontinuity w).st.pending = w.st.pending := rfl

@[simp] theorem discontinuity_out (w : Work) :
    (discontinuity w).st.out = w.st.out := rfl

/-! A frame opened. -/

@[simp] theorem tagOpen_phase (off : Word64) (w : Work) :
    (tagOpen off w).st.phase = w.st.phase := rfl

@[simp] theorem tagOpen_d (off : Word64) (w : Work) :
    (tagOpen off w).st.d = w.st.d := rfl

@[simp] theorem tagOpen_next (off : Word64) (w : Work) :
    (tagOpen off w).st.next = w.st.next := rfl

@[simp] theorem tagOpen_lastSample (off : Word64) (w : Work) :
    (tagOpen off w).st.lastSample = w.st.lastSample := rfl

@[simp] theorem tagOpen_inSampleCount (off : Word64) (w : Work) :
    (tagOpen off w).st.inSampleCount = w.st.inSampleCount := rfl

@[simp] theorem tagOpen_blockTs (off : Word64) (w : Work) :
    (tagOpen off w).st.blockTs = w.st.blockTs := rfl

@[simp] theorem tagOpen_blockOffset (off : Word64) (w : Work) :
    (tagOpen off w).st.blockOffset = w.st.blockOffset := rfl

@[simp] theorem tagOpen_acc (off : Word64) (w : Work) :
    (tagOpen off w).st.acc = w.st.acc := rfl

@[simp] theorem tagOpen_fphase (off : Word64) (w : Work) :
    (tagOpen off w).st.fphase = .consumeTail := rfl

@[simp] theorem tagOpen_buf (off : Word64) (w : Work) :
    (tagOpen off w).st.buf = headerBytes w.st.buf w.st.acc := rfl

@[simp] theorem tagOpen_blen (off : Word64) (w : Work) :
    (tagOpen off w).st.blen = BitVec.ofNat 5 (1 + (lengthField w.st.acc).toNat + 7) := rfl

@[simp] theorem tagOpen_wcur (off : Word64) (w : Work) :
    (tagOpen off w).st.wcur = 8 := rfl

@[simp] theorem tagOpen_rem (off : Word64) (w : Work) :
    (tagOpen off w).st.rem = BitVec.ofNat 7 (((lengthField w.st.acc).toNat - 6 + 7 - 1) * 8) := rfl

@[simp] theorem tagOpen_frameTsBlock (off : Word64) (w : Work) :
    (tagOpen off w).st.frameTsBlock = w.st.blockTs := rfl

@[simp] theorem tagOpen_frameTsOff (off : Word64) (w : Work) :
    (tagOpen off w).st.frameTsOff = off := rfl

@[simp] theorem tagOpen_pending (off : Word64) (w : Work) :
    (tagOpen off w).st.pending = w.st.pending := rfl

@[simp] theorem tagOpen_out (off : Word64) (w : Work) :
    (tagOpen off w).st.out = w.st.out := rfl

/-! The synchronizer actions that do not call the framer. -/

@[simp] theorem seed_phase (p : Build) (i : Word64) (w : Work) :
    (seed p i w).st.phase = .firstTransition := rfl

@[simp] theorem seed_d (p : Build) (i : Word64) (w : Work) :
    (seed p i w).st.d = nominalPeriod p := rfl

@[simp] theorem seed_next (p : Build) (i : Word64) (w : Work) :
    (seed p i w).st.next = Fp.add (indexValue i) (nominalPeriod p) := rfl

@[simp] theorem seed_lastSample (p : Build) (i : Word64) (w : Work) :
    (seed p i w).st.lastSample = w.st.lastSample := rfl

@[simp] theorem seed_inSampleCount (p : Build) (i : Word64) (w : Work) :
    (seed p i w).st.inSampleCount = w.st.inSampleCount := rfl

@[simp] theorem seed_blockTs (p : Build) (i : Word64) (w : Work) :
    (seed p i w).st.blockTs = w.st.blockTs := rfl

@[simp] theorem seed_blockOffset (p : Build) (i : Word64) (w : Work) :
    (seed p i w).st.blockOffset = w.st.blockOffset := rfl

@[simp] theorem seed_acc (p : Build) (i : Word64) (w : Work) :
    (seed p i w).st.acc = w.st.acc := rfl

@[simp] theorem seed_fphase (p : Build) (i : Word64) (w : Work) :
    (seed p i w).st.fphase = w.st.fphase := rfl

@[simp] theorem seed_buf (p : Build) (i : Word64) (w : Work) :
    (seed p i w).st.buf = w.st.buf := rfl

@[simp] theorem seed_blen (p : Build) (i : Word64) (w : Work) :
    (seed p i w).st.blen = w.st.blen := rfl

@[simp] theorem seed_wcur (p : Build) (i : Word64) (w : Work) :
    (seed p i w).st.wcur = w.st.wcur := rfl

@[simp] theorem seed_rem (p : Build) (i : Word64) (w : Work) :
    (seed p i w).st.rem = w.st.rem := rfl

@[simp] theorem seed_frameTsBlock (p : Build) (i : Word64) (w : Work) :
    (seed p i w).st.frameTsBlock = w.st.frameTsBlock := rfl

@[simp] theorem seed_frameTsOff (p : Build) (i : Word64) (w : Work) :
    (seed p i w).st.frameTsOff = w.st.frameTsOff := rfl

@[simp] theorem seed_pending (p : Build) (i : Word64) (w : Work) :
    (seed p i w).st.pending = w.st.pending := rfl

@[simp] theorem seed_out (p : Build) (i : Word64) (w : Work) :
    (seed p i w).st.out = w.st.out := rfl

@[simp] theorem correct_phase (half : Binary64) (w : Work) :
    (correct half w).st.phase = w.st.phase := rfl

@[simp] theorem correct_d (half : Binary64) (w : Work) :
    (correct half w).st.d = w.st.d := rfl

@[simp] theorem correct_next (half : Binary64) (w : Work) :
    (correct half w).st.next = Fp.sub w.st.next half := rfl

@[simp] theorem correct_lastSample (half : Binary64) (w : Work) :
    (correct half w).st.lastSample = w.st.lastSample := rfl

@[simp] theorem correct_inSampleCount (half : Binary64) (w : Work) :
    (correct half w).st.inSampleCount = w.st.inSampleCount := rfl

@[simp] theorem correct_blockTs (half : Binary64) (w : Work) :
    (correct half w).st.blockTs = w.st.blockTs := rfl

@[simp] theorem correct_blockOffset (half : Binary64) (w : Work) :
    (correct half w).st.blockOffset = w.st.blockOffset := rfl

@[simp] theorem correct_acc (half : Binary64) (w : Work) :
    (correct half w).st.acc = w.st.acc := rfl

@[simp] theorem correct_fphase (half : Binary64) (w : Work) :
    (correct half w).st.fphase = w.st.fphase := rfl

@[simp] theorem correct_buf (half : Binary64) (w : Work) :
    (correct half w).st.buf = w.st.buf := rfl

@[simp] theorem correct_blen (half : Binary64) (w : Work) :
    (correct half w).st.blen = w.st.blen := rfl

@[simp] theorem correct_wcur (half : Binary64) (w : Work) :
    (correct half w).st.wcur = w.st.wcur := rfl

@[simp] theorem correct_rem (half : Binary64) (w : Work) :
    (correct half w).st.rem = w.st.rem := rfl

@[simp] theorem correct_frameTsBlock (half : Binary64) (w : Work) :
    (correct half w).st.frameTsBlock = w.st.frameTsBlock := rfl

@[simp] theorem correct_frameTsOff (half : Binary64) (w : Work) :
    (correct half w).st.frameTsOff = w.st.frameTsOff := rfl

@[simp] theorem correct_pending (half : Binary64) (w : Work) :
    (correct half w).st.pending = w.st.pending := rfl

@[simp] theorem correct_out (half : Binary64) (w : Work) :
    (correct half w).st.out = w.st.out := rfl

@[simp] theorem acquire_phase (w : Work) :
    (acquire w).st.phase = .synchronised := rfl

@[simp] theorem acquire_d (w : Work) :
    (acquire w).st.d = w.st.d := rfl

@[simp] theorem acquire_next (w : Work) :
    (acquire w).st.next = Fp.add w.st.next w.st.d := rfl

@[simp] theorem acquire_lastSample (w : Work) :
    (acquire w).st.lastSample = w.st.lastSample := rfl

@[simp] theorem acquire_inSampleCount (w : Work) :
    (acquire w).st.inSampleCount = w.st.inSampleCount := rfl

@[simp] theorem acquire_blockTs (w : Work) :
    (acquire w).st.blockTs = w.st.blockTs := rfl

@[simp] theorem acquire_blockOffset (w : Work) :
    (acquire w).st.blockOffset = w.st.blockOffset := rfl

@[simp] theorem acquire_acc (w : Work) :
    (acquire w).st.acc = w.st.acc := rfl

@[simp] theorem acquire_fphase (w : Work) :
    (acquire w).st.fphase = w.st.fphase := rfl

@[simp] theorem acquire_buf (w : Work) :
    (acquire w).st.buf = w.st.buf := rfl

@[simp] theorem acquire_blen (w : Work) :
    (acquire w).st.blen = w.st.blen := rfl

@[simp] theorem acquire_wcur (w : Work) :
    (acquire w).st.wcur = w.st.wcur := rfl

@[simp] theorem acquire_rem (w : Work) :
    (acquire w).st.rem = w.st.rem := rfl

@[simp] theorem acquire_frameTsBlock (w : Work) :
    (acquire w).st.frameTsBlock = w.st.frameTsBlock := rfl

@[simp] theorem acquire_frameTsOff (w : Work) :
    (acquire w).st.frameTsOff = w.st.frameTsOff := rfl

@[simp] theorem acquire_pending (w : Work) :
    (acquire w).st.pending = w.st.pending := rfl

@[simp] theorem acquire_out (w : Work) :
    (acquire w).st.out = w.st.out := rfl

@[simp] theorem acqFail_phase (w : Work) :
    (acqFail w).st.phase = .unsynchronised := rfl

@[simp] theorem acqFail_d (w : Work) :
    (acqFail w).st.d = w.st.d := rfl

@[simp] theorem acqFail_next (w : Work) :
    (acqFail w).st.next = w.st.next := rfl

@[simp] theorem acqFail_lastSample (w : Work) :
    (acqFail w).st.lastSample = w.st.lastSample := rfl

@[simp] theorem acqFail_inSampleCount (w : Work) :
    (acqFail w).st.inSampleCount = w.st.inSampleCount := rfl

@[simp] theorem acqFail_blockTs (w : Work) :
    (acqFail w).st.blockTs = w.st.blockTs := rfl

@[simp] theorem acqFail_blockOffset (w : Work) :
    (acqFail w).st.blockOffset = w.st.blockOffset := rfl

@[simp] theorem acqFail_acc (w : Work) :
    (acqFail w).st.acc = w.st.acc := rfl

@[simp] theorem acqFail_fphase (w : Work) :
    (acqFail w).st.fphase = w.st.fphase := rfl

@[simp] theorem acqFail_buf (w : Work) :
    (acqFail w).st.buf = w.st.buf := rfl

@[simp] theorem acqFail_blen (w : Work) :
    (acqFail w).st.blen = w.st.blen := rfl

@[simp] theorem acqFail_wcur (w : Work) :
    (acqFail w).st.wcur = w.st.wcur := rfl

@[simp] theorem acqFail_rem (w : Work) :
    (acqFail w).st.rem = w.st.rem := rfl

@[simp] theorem acqFail_frameTsBlock (w : Work) :
    (acqFail w).st.frameTsBlock = w.st.frameTsBlock := rfl

@[simp] theorem acqFail_frameTsOff (w : Work) :
    (acqFail w).st.frameTsOff = w.st.frameTsOff := rfl

@[simp] theorem acqFail_pending (w : Work) :
    (acqFail w).st.pending = w.st.pending := rfl

@[simp] theorem acqFail_out (w : Work) :
    (acqFail w).st.out = w.st.out := rfl

@[simp] theorem halfBit_st (w : Work) :
    (halfBit w).st = w.st := rfl

/-! LOST. -/

@[simp] theorem lost_phase (w : Work) :
    (lost w).st.phase = .unsynchronised := rfl

@[simp] theorem lost_d (w : Work) :
    (lost w).st.d = w.st.d := rfl

@[simp] theorem lost_next (w : Work) :
    (lost w).st.next = w.st.next := rfl

@[simp] theorem lost_lastSample (w : Work) :
    (lost w).st.lastSample = w.st.lastSample := rfl

@[simp] theorem lost_inSampleCount (w : Work) :
    (lost w).st.inSampleCount = w.st.inSampleCount := rfl

@[simp] theorem lost_blockTs (w : Work) :
    (lost w).st.blockTs = w.st.blockTs := rfl

@[simp] theorem lost_blockOffset (w : Work) :
    (lost w).st.blockOffset = w.st.blockOffset := rfl

@[simp] theorem lost_acc (w : Work) :
    (lost w).st.acc = 0 := rfl

@[simp] theorem lost_fphase (w : Work) :
    (lost w).st.fphase = .awaitTag := rfl

@[simp] theorem lost_buf (w : Work) :
    (lost w).st.buf = w.st.buf := rfl

@[simp] theorem lost_blen (w : Work) :
    (lost w).st.blen = 0 := rfl

@[simp] theorem lost_wcur (w : Work) :
    (lost w).st.wcur = 0 := rfl

@[simp] theorem lost_rem (w : Work) :
    (lost w).st.rem = 0 := rfl

@[simp] theorem lost_frameTsBlock (w : Work) :
    (lost w).st.frameTsBlock = w.st.frameTsBlock := rfl

@[simp] theorem lost_frameTsOff (w : Work) :
    (lost w).st.frameTsOff = w.st.frameTsOff := rfl

@[simp] theorem lost_pending (w : Work) :
    (lost w).st.pending = w.st.pending := rfl

@[simp] theorem lost_out (w : Work) :
    (lost w).st.out = w.st.out := rfl

/-! The steps without a command. -/

@[simp] theorem idleStep_phase (s : State) :
    (idleStep s).phase = s.phase := rfl

@[simp] theorem idleStep_d (s : State) :
    (idleStep s).d = s.d := rfl

@[simp] theorem idleStep_next (s : State) :
    (idleStep s).next = s.next := rfl

@[simp] theorem idleStep_lastSample (s : State) :
    (idleStep s).lastSample = s.lastSample := rfl

@[simp] theorem idleStep_inSampleCount (s : State) :
    (idleStep s).inSampleCount = s.inSampleCount := rfl

@[simp] theorem idleStep_blockTs (s : State) :
    (idleStep s).blockTs = s.blockTs := rfl

@[simp] theorem idleStep_blockOffset (s : State) :
    (idleStep s).blockOffset = s.blockOffset := rfl

@[simp] theorem idleStep_acc (s : State) :
    (idleStep s).acc = s.acc := rfl

@[simp] theorem idleStep_fphase (s : State) :
    (idleStep s).fphase = s.fphase := rfl

@[simp] theorem idleStep_buf (s : State) :
    (idleStep s).buf = s.buf := rfl

@[simp] theorem idleStep_blen (s : State) :
    (idleStep s).blen = s.blen := rfl

@[simp] theorem idleStep_wcur (s : State) :
    (idleStep s).wcur = s.wcur := rfl

@[simp] theorem idleStep_rem (s : State) :
    (idleStep s).rem = s.rem := rfl

@[simp] theorem idleStep_frameTsBlock (s : State) :
    (idleStep s).frameTsBlock = s.frameTsBlock := rfl

@[simp] theorem idleStep_frameTsOff (s : State) :
    (idleStep s).frameTsOff = s.frameTsOff := rfl

@[simp] theorem idleStep_pending (s : State) :
    (idleStep s).pending = s.pending := rfl

@[simp] theorem idleStep_out (s : State) :
    (idleStep s).out = none := rfl

@[simp] theorem resetStep_phase (p : Build) (s : State) :
    (resetStep p s).phase = (State.resetFor p).phase := rfl

@[simp] theorem resetStep_d (p : Build) (s : State) :
    (resetStep p s).d = (State.resetFor p).d := rfl

@[simp] theorem resetStep_next (p : Build) (s : State) :
    (resetStep p s).next = (State.resetFor p).next := rfl

@[simp] theorem resetStep_lastSample (p : Build) (s : State) :
    (resetStep p s).lastSample = (State.resetFor p).lastSample := rfl

@[simp] theorem resetStep_inSampleCount (p : Build) (s : State) :
    (resetStep p s).inSampleCount = (State.resetFor p).inSampleCount := rfl

@[simp] theorem resetStep_blockTs (p : Build) (s : State) :
    (resetStep p s).blockTs = (State.resetFor p).blockTs := rfl

@[simp] theorem resetStep_blockOffset (p : Build) (s : State) :
    (resetStep p s).blockOffset = (State.resetFor p).blockOffset := rfl

@[simp] theorem resetStep_acc (p : Build) (s : State) :
    (resetStep p s).acc = (State.resetFor p).acc := rfl

@[simp] theorem resetStep_fphase (p : Build) (s : State) :
    (resetStep p s).fphase = (State.resetFor p).fphase := rfl

@[simp] theorem resetStep_buf (p : Build) (s : State) :
    (resetStep p s).buf = (State.resetFor p).buf := rfl

@[simp] theorem resetStep_blen (p : Build) (s : State) :
    (resetStep p s).blen = (State.resetFor p).blen := rfl

@[simp] theorem resetStep_wcur (p : Build) (s : State) :
    (resetStep p s).wcur = (State.resetFor p).wcur := rfl

@[simp] theorem resetStep_rem (p : Build) (s : State) :
    (resetStep p s).rem = (State.resetFor p).rem := rfl

@[simp] theorem resetStep_frameTsBlock (p : Build) (s : State) :
    (resetStep p s).frameTsBlock = (State.resetFor p).frameTsBlock := rfl

@[simp] theorem resetStep_frameTsOff (p : Build) (s : State) :
    (resetStep p s).frameTsOff = (State.resetFor p).frameTsOff := rfl

@[simp] theorem resetStep_pending (p : Build) (s : State) :
    (resetStep p s).pending = s.pending := rfl

@[simp] theorem resetStep_out (p : Build) (s : State) :
    (resetStep p s).out = (State.resetFor p).out := rfl

/-! A placed command. -/

@[simp] theorem withFetchWord_phase (s : State) (nbits w : Nat) :
    (s.withFetchWord nbits w).phase = s.phase := rfl

@[simp] theorem withFetchWord_d (s : State) (nbits w : Nat) :
    (s.withFetchWord nbits w).d = s.d := rfl

@[simp] theorem withFetchWord_next (s : State) (nbits w : Nat) :
    (s.withFetchWord nbits w).next = s.next := rfl

@[simp] theorem withFetchWord_lastSample (s : State) (nbits w : Nat) :
    (s.withFetchWord nbits w).lastSample = s.lastSample := rfl

@[simp] theorem withFetchWord_inSampleCount (s : State) (nbits w : Nat) :
    (s.withFetchWord nbits w).inSampleCount = s.inSampleCount := rfl

@[simp] theorem withFetchWord_blockTs (s : State) (nbits w : Nat) :
    (s.withFetchWord nbits w).blockTs = s.blockTs := rfl

@[simp] theorem withFetchWord_blockOffset (s : State) (nbits w : Nat) :
    (s.withFetchWord nbits w).blockOffset = s.blockOffset := rfl

@[simp] theorem withFetchWord_acc (s : State) (nbits w : Nat) :
    (s.withFetchWord nbits w).acc = s.acc := rfl

@[simp] theorem withFetchWord_fphase (s : State) (nbits w : Nat) :
    (s.withFetchWord nbits w).fphase = s.fphase := rfl

@[simp] theorem withFetchWord_buf (s : State) (nbits w : Nat) :
    (s.withFetchWord nbits w).buf = s.buf := rfl

@[simp] theorem withFetchWord_blen (s : State) (nbits w : Nat) :
    (s.withFetchWord nbits w).blen = s.blen := rfl

@[simp] theorem withFetchWord_wcur (s : State) (nbits w : Nat) :
    (s.withFetchWord nbits w).wcur = s.wcur := rfl

@[simp] theorem withFetchWord_rem (s : State) (nbits w : Nat) :
    (s.withFetchWord nbits w).rem = s.rem := rfl

@[simp] theorem withFetchWord_frameTsBlock (s : State) (nbits w : Nat) :
    (s.withFetchWord nbits w).frameTsBlock = s.frameTsBlock := rfl

@[simp] theorem withFetchWord_frameTsOff (s : State) (nbits w : Nat) :
    (s.withFetchWord nbits w).frameTsOff = s.frameTsOff := rfl

@[simp] theorem withFetchWord_pending (s : State) (nbits w : Nat) :
    (s.withFetchWord nbits w).pending = .command (BitVec.ofNat 66 (w % 2 ^ nbits)) :: s.pending := rfl

@[simp] theorem withFetchWord_out (s : State) (nbits w : Nat) :
    (s.withFetchWord nbits w).out = s.out := rfl

end Sys2Proof.Machine
end

