-- ==== Sys2Proof/Laws/Ops.lean ====
section
/-!
SUPPORT. What each shared operation can do, said once: the step and the meanings in terms of the operations any build
performs, the frame buffer, and the cases of the framer and of the synchronizer.
-/

namespace Sys2Proof.Machine

/-! The meanings, the dispatch and the step. -/

theorem exec_smp (x : Sample) (ignored : BitVec 48) (s : State) :
    exec (.smp x ignored) s = .next (smpFor standardBuild x s) := rfl

theorem exec_blk (t : Word64) (s : State) : exec (.blk t) s = .next (blkFor t s) := rfl

theorem exec_rsv2 (v : Word64) (s : State) : exec (.rsv2 v) s = .next (reservedFor 0b10#2 s) := rfl

theorem exec_rsv3 (v : Word64) (s : State) : exec (.rsv3 v) s = .next (reservedFor 0b11#2 s) := rfl

/-- What `exec` does is what the standard build performs. -/
theorem exec_eq_performFor (i : Instr) (s : State) : exec i s = .next (performFor standardBuild i s) := by
  cases i <;> rfl

/-- The host's input is empty, or its oldest entry is taken. -/
theorem takeInput_cases (s : State) :
    (s.pending = [] ∧ takeInput s = none) ∨
      ∃ i rest, s.pending = i :: rest ∧ takeInput s = some (i, { s with pending := rest }) := by
  unfold takeInput
  cases s.pending with
  | nil => exact .inl ⟨rfl, rfl⟩
  | cons i rest => exact .inr ⟨i, rest, rfl, rfl⟩

/-- What `step` does is what the standard build does in a step. -/
theorem step_eq_stepFor (s : State) : step s = .next (stepFor standardBuild s) := by
  unfold step stepFor
  rcases takeInput_cases s with ⟨-, h⟩ | ⟨i, rest, -, h⟩ <;> rw [h]
  cases i with
  | command b => exact exec_eq_performFor _ _
  | reset => rfl

/-- A run of no step. -/
theorem run_zero (s : State) : Sys2Proof.core.run 0 s = .next s := rfl

/-- A run of any machine goes on from the state its first step gives. -/
theorem machine_run_next {M : Host.Core} (n : Nat) {s t : M.State} (h : M.step s = .next t) :
    M.run (n + 1) s = M.run n t := by
  simp only [Host.Core.run, h]

/-- A run goes on from the state its first step gives. -/
theorem run_next (n : Nat) {s t : State} (h : step s = .next t) : Sys2Proof.core.run (n + 1) s = Sys2Proof.core.run n t :=
  machine_run_next (M := Sys2Proof.core) n h

/-! The frame buffer. -/

theorem storeByte_inside (b : FrameBuffer) (cur : BitVec 5) (v : Byte) (h : cur.toNat < maxFrame) :
    storeByte b cur v = b.set cur.toNat v h := by
  unfold storeByte
  rw [dif_pos h]

theorem loadByte_inside (b : FrameBuffer) (i : Nat) (h : i < maxFrame) : loadByte b i = b[i] := by
  unfold loadByte
  rw [dif_pos h]

/-- A stored byte reads back at its cursor, and every other byte reads as before. -/
theorem loadByte_storeByte (b : FrameBuffer) (cur : BitVec 5) (v : Byte) (i : Nat) (h : cur.toNat < maxFrame)
    (hi : i < maxFrame) : loadByte (storeByte b cur v) i = if cur.toNat = i then v else loadByte b i := by
  rw [storeByte_inside b cur v h, loadByte_inside _ i hi, loadByte_inside _ i hi, Vector.getElem_set]

@[simp] theorem frameBytes_length (s : State) : (frameBytes s).length = s.blen.toNat := by
  simp [frameBytes]

theorem frameBytes_getElem (s : State) (i : Nat) (h : i < (frameBytes s).length) :
    (frameBytes s)[i] = loadByte s.buf i := by
  simp [frameBytes]

/-- The header bytes are the accumulator's, most significant first; the bytes behind them stay. -/
theorem headerBytes_getElem (b : FrameBuffer) (acc : Word64) (i : Nat) (h : i < maxFrame) :
    (headerBytes b acc)[i] = if i < 8 then acc.extractLsb' (56 - 8 * i) 8 else b[i] := by
  unfold headerBytes
  simp only [maxFrame] at h
  interval_cases i <;> simp <;> rfl

/-! The framer. -/

/-- Every eighth tail bit appends the accumulator's low byte; the others append nothing. -/
theorem appendTail_cases (w : Work) :
    (w.st.rem.toNat % 8 = 0 ∧ appendTail w =
        { w with st := { w.st with
            buf := storeByte w.st.buf w.st.wcur (w.st.acc.extractLsb 7 0)
            wcur := w.st.wcur + 1 } }) ∨
      (w.st.rem.toNat % 8 ≠ 0 ∧ appendTail w = w) := by
  unfold appendTail
  split
  · next h => exact .inl ⟨h, rfl⟩
  · next h => exact .inr ⟨h, rfl⟩

/-- A completed frame is accepted with residue 0, or failed with another; the buffer is freed either way. -/
theorem complete_cases (w : Work) :
    (crc16 (frameBytes w.st) = 0 ∧
        complete w = freeFrame (accept { w with resp := { w.resp with crc := crc16 (frameBytes w.st) } })) ∨
      (crc16 (frameBytes w.st) ≠ 0 ∧
        complete w =
          freeFrame (raiseFramer .doneFail { w with resp := { w.resp with crc := crc16 (frameBytes w.st) } })) := by
  unfold complete crcAccepts
  by_cases h : crc16 (frameBytes w.st) = 0
  · exact .inl ⟨h, by simp [h]⟩
  · exact .inr ⟨h, by dsimp only; rw [decide_eq_false h]; rfl⟩

/-- A bit in AWAIT_TAG is shifted in, rejected as a tag, or opens a frame. -/
theorem awaitTag_cases (p : Build) (off : Word64) (w : Work) :
    (tagWindow w.st.acc ≠ p.params.tag ∧ awaitTag p off w = shiftOnly w) ∨
      (tagWindow w.st.acc = p.params.tag ∧ (lengthField w.st.acc).toNat < 8 ∧ awaitTag p off w = tagReject w) ∨
        (tagWindow w.st.acc = p.params.tag ∧ 8 ≤ (lengthField w.st.acc).toNat ∧ awaitTag p off w = tagOpen off w) := by
  unfold awaitTag
  split
  · next h =>
    split
    · next h' => exact .inr (.inl ⟨h, h', rfl⟩)
    · next h' => exact .inr (.inr ⟨h, not_lt.mp h', rfl⟩)
  · next h => exact .inl ⟨h, rfl⟩

/-- The work of a decoded bit right after the shift. -/
def shifted (b : Bool) (w : Work) : Work :=
  { w with st := { w.st with acc := shiftIn w.st.acc b } }

theorem framerBit_awaitTag (p : Build) (b : Bool) (off : Word64) (w : Work) (h : w.st.fphase = .awaitTag) :
    framerBit p b off w = awaitTag p off (shifted b w) := by
  simp only [framerBit, h, shifted]

theorem framerBit_consumeTail (p : Build) (b : Bool) (off : Word64) (w : Work) (h : w.st.fphase = .consumeTail) :
    framerBit p b off w = consumeTail (shifted b w) := by
  simp only [framerBit, h, shifted]

/-- The work of a tail bit right after the count. -/
def counted (w : Work) : Work :=
  { w with st := { w.st with rem := w.st.rem - 1 } }

/-- The work of a tail bit that ends a byte, right after the append. -/
def appended (w : Work) : Work :=
  { w with st := { w.st with
      rem := w.st.rem - 1
      buf := storeByte w.st.buf w.st.wcur (w.st.acc.extractLsb 7 0)
      wcur := w.st.wcur + 1 } }

/-- A tail bit that ends no byte counts down (R166). -/
theorem consumeTail_count (w : Work) {r : BitVec 7} (hr : w.st.rem = r) (h : (r - 1).toNat % 8 ≠ 0) :
    consumeTail w = raiseFramer .tail (counted w) := by
  subst hr
  have h0 : w.st.rem - 1 ≠ 0 := fun hc => h (by rw [hc]; rfl)
  unfold consumeTail appendTail
  simp only [if_neg h, if_neg h0, counted]

/-- A tail bit that ends a byte but not the frame appends it (R166). -/
theorem consumeTail_append (w : Work) {r : BitVec 7} (hr : w.st.rem = r) (h : (r - 1).toNat % 8 = 0)
    (h0 : r - 1 ≠ 0) : consumeTail w = raiseFramer .tail (appended w) := by
  subst hr
  unfold consumeTail appendTail
  simp only [if_pos h, if_neg h0, appended]

/-- The last tail bit appends its byte and completes the frame (R166, R167). -/
theorem consumeTail_last (w : Work) (h0 : w.st.rem = 1) : consumeTail w = complete (appended w) := by
  have h1 : w.st.rem - 1 = 0 := by rw [h0]; rfl
  have h : (w.st.rem - 1).toNat % 8 = 0 := by rw [h1]; rfl
  unfold consumeTail appendTail
  simp only [if_pos h, if_pos h1, appended]

/-- No action of the framer writes the synchronizer's event (R86, R87). -/
@[simp] theorem framerBit_sev (p : Build) (b : Bool) (off : Word64) (w : Work) :
    (framerBit p b off w).resp.sev = w.resp.sev := by
  have tail (v : Work) : (consumeTail v).resp.sev = v.resp.sev := by
    simp only [consumeTail, appendTail, complete, accept, freeFrame, raiseFramer]
    split_ifs <;> rfl
  have tag (v : Work) : (awaitTag p off v).resp.sev = v.resp.sev := by
    rcases awaitTag_cases p off v with ⟨-, h⟩ | ⟨-, -, h⟩ | ⟨-, -, h⟩ <;> rw [h] <;> rfl
  cases h : w.st.fphase with
  | awaitTag => rw [framerBit_awaitTag p b off w h, tag]; rfl
  | consumeTail => rw [framerBit_consumeTail p b off w h, tail]; rfl

/-! The synchronizer. -/

/-- MID holds in FIRST_TRANSITION: HALF (R134, R135). -/
theorem firstTransitionStep_half (p : Build) (i : Word64) (w : Work)
    (hm : midWindow p (halfPeriod w.st) (timingError w.st i) = true) : firstTransitionStep p i w = halfBit w := by
  unfold firstTransitionStep
  exact if_pos hm

/-- LATE holds and MID does not, in FIRST_TRANSITION: CORRECT (R134, R136). -/
theorem firstTransitionStep_correct (p : Build) (i : Word64) (w : Work)
    (hm : midWindow p (halfPeriod w.st) (timingError w.st i) = false)
    (hl : lateWindow p (halfPeriod w.st) (timingError w.st i) = true) :
    firstTransitionStep p i w = correct (halfPeriod w.st) w := by
  unfold firstTransitionStep
  exact (if_neg (by rw [hm]; decide)).trans (if_pos hl)

/-- Only CEN holds in FIRST_TRANSITION: ACQUIRE (R134, R137). -/
theorem firstTransitionStep_acquire (p : Build) (i : Word64) (w : Work)
    (hm : midWindow p (halfPeriod w.st) (timingError w.st i) = false)
    (hl : lateWindow p (halfPeriod w.st) (timingError w.st i) = false)
    (hc : centreWindow p (timingError w.st i) = true) : firstTransitionStep p i w = acquire w := by
  unfold firstTransitionStep
  exact (if_neg (by rw [hm]; decide)).trans ((if_neg (by rw [hl]; decide)).trans (if_pos hc))

/-- No window holds in FIRST_TRANSITION: ACQFAIL (R134, R138). -/
theorem firstTransitionStep_acqFail (p : Build) (i : Word64) (w : Work)
    (hm : midWindow p (halfPeriod w.st) (timingError w.st i) = false)
    (hl : lateWindow p (halfPeriod w.st) (timingError w.st i) = false)
    (hc : centreWindow p (timingError w.st i) = false) : firstTransitionStep p i w = acqFail w := by
  unfold firstTransitionStep
  exact (if_neg (by rw [hm]; decide)).trans ((if_neg (by rw [hl]; decide)).trans (if_neg (by rw [hc]; decide)))

/-- Which action a transition in FIRST_TRANSITION takes: the first window that holds, in the order of R134. -/
theorem firstTransitionStep_cases (p : Build) (i : Word64) (w : Work) :
    (midWindow p (halfPeriod w.st) (timingError w.st i) = true ∧ firstTransitionStep p i w = halfBit w) ∨
      (midWindow p (halfPeriod w.st) (timingError w.st i) = false ∧
          lateWindow p (halfPeriod w.st) (timingError w.st i) = true ∧
          firstTransitionStep p i w = correct (halfPeriod w.st) w) ∨
        (midWindow p (halfPeriod w.st) (timingError w.st i) = false ∧
            lateWindow p (halfPeriod w.st) (timingError w.st i) = false ∧
            centreWindow p (timingError w.st i) = true ∧ firstTransitionStep p i w = acquire w) ∨
          (midWindow p (halfPeriod w.st) (timingError w.st i) = false ∧
            lateWindow p (halfPeriod w.st) (timingError w.st i) = false ∧
            centreWindow p (timingError w.st i) = false ∧ firstTransitionStep p i w = acqFail w) := by
  cases hm : midWindow p (halfPeriod w.st) (timingError w.st i)
  · cases hl : lateWindow p (halfPeriod w.st) (timingError w.st i)
    · cases hc : centreWindow p (timingError w.st i)
      · exact .inr (.inr (.inr ⟨rfl, rfl, rfl, firstTransitionStep_acqFail p i w hm hl hc⟩))
      · exact .inr (.inr (.inl ⟨rfl, rfl, rfl, firstTransitionStep_acquire p i w hm hl hc⟩))
    · exact .inr (.inl ⟨rfl, rfl, firstTransitionStep_correct p i w hm hl⟩)
  · exact .inl ⟨rfl, firstTransitionStep_half p i w hm⟩

/-- MID holds in SYNCHRONISED: HALF (R139, R140). -/
theorem synchronisedStep_half (p : Build) (i off : Word64) (x : Sample) (w : Work)
    (hm : midWindow p (halfPeriod w.st) (timingError w.st i) = true) : synchronisedStep p i off x w = halfBit w := by
  unfold synchronisedStep
  exact if_pos hm

/-- CEN holds and MID does not, in SYNCHRONISED: BIT (R139, R141). -/
theorem synchronisedStep_bit (p : Build) (i off : Word64) (x : Sample) (w : Work)
    (hm : midWindow p (halfPeriod w.st) (timingError w.st i) = false)
    (hc : centreWindow p (timingError w.st i) = true) :
    synchronisedStep p i off x w = bitCentre p (timingError w.st i) off x w := by
  unfold synchronisedStep
  exact (if_neg (by rw [hm]; decide)).trans (if_pos hc)

/-- Neither window holds in SYNCHRONISED: LOST (R139, R142). -/
theorem synchronisedStep_lost (p : Build) (i off : Word64) (x : Sample) (w : Work)
    (hm : midWindow p (halfPeriod w.st) (timingError w.st i) = false)
    (hc : centreWindow p (timingError w.st i) = false) : synchronisedStep p i off x w = lost w := by
  unfold synchronisedStep
  exact (if_neg (by rw [hm]; decide)).trans (if_neg (by rw [hc]; decide))

/-- Which action a transition in SYNCHRONISED takes: the first window that holds, in the order of R139. -/
theorem synchronisedStep_cases (p : Build) (i off : Word64) (x : Sample) (w : Work) :
    (midWindow p (halfPeriod w.st) (timingError w.st i) = true ∧ synchronisedStep p i off x w = halfBit w) ∨
      (midWindow p (halfPeriod w.st) (timingError w.st i) = false ∧ centreWindow p (timingError w.st i) = true ∧
          synchronisedStep p i off x w = bitCentre p (timingError w.st i) off x w) ∨
        (midWindow p (halfPeriod w.st) (timingError w.st i) = false ∧
          centreWindow p (timingError w.st i) = false ∧ synchronisedStep p i off x w = lost w) := by
  cases hm : midWindow p (halfPeriod w.st) (timingError w.st i)
  · cases hc : centreWindow p (timingError w.st i)
    · exact .inr (.inr ⟨rfl, rfl, synchronisedStep_lost p i off x w hm hc⟩)
    · exact .inr (.inl ⟨rfl, rfl, synchronisedStep_bit p i off x w hm hc⟩)
  · exact .inl ⟨rfl, synchronisedStep_half p i off x w hm⟩

theorem syncStep_unsynchronised (p : Build) (i off : Word64) (x : Sample) (w : Work)
    (h : w.st.phase = .unsynchronised) : syncStep p i off x w = seed p i w := by
  unfold syncStep
  rw [h]

theorem syncStep_firstTransition (p : Build) (i off : Word64) (x : Sample) (w : Work)
    (h : w.st.phase = .firstTransition) : syncStep p i off x w = firstTransitionStep p i w := by
  unfold syncStep
  rw [h]

theorem syncStep_synchronised (p : Build) (i off : Word64) (x : Sample) (w : Work)
    (h : w.st.phase = .synchronised) : syncStep p i off x w = synchronisedStep p i off x w := by
  unfold syncStep
  rw [h]

/-- The work after the three fields that every SMP writes (40_commands.md R100). -/
def sampleTaken (x : Sample) (w : Work) : Work :=
  { w with st := { w.st with
      lastSample := x
      inSampleCount := w.st.inSampleCount + 1
      blockOffset := w.st.blockOffset + 1 } }

/-- A sample without a transition writes only those three fields. -/
theorem processSample_quiet (p : Build) (x : Sample) (w : Work) (h : transition w.st.lastSample x = false) :
    processSample p x w = sampleTaken x w := by
  simp only [processSample, h, sampleTaken]; rfl

/-- A sample with a transition takes one synchronizer action before them. -/
theorem processSample_transition (p : Build) (x : Sample) (w : Work) (h : transition w.st.lastSample x = true) :
    processSample p x w = sampleTaken x (syncStep p w.st.inSampleCount w.st.blockOffset x w) := by
  simp only [processSample, h, sampleTaken]; rfl

/-- SMP without a transition. -/
theorem smpFor_quiet (p : Build) (x : Sample) (s : State) (h : transition s.lastSample x = false) :
    smpFor p x s = closeStep (sampleTaken x (openStep 0b00#2 s)) := by
  unfold smpFor
  rw [processSample_quiet p x (openStep 0b00#2 s) h]

/-- SMP with a transition. -/
theorem smpFor_transition (p : Build) (x : Sample) (s : State) (h : transition s.lastSample x = true) :
    smpFor p x s = closeStep (sampleTaken x (syncStep p s.inSampleCount s.blockOffset x (openStep 0b00#2 s))) := by
  unfold smpFor
  rw [processSample_transition p x (openStep 0b00#2 s) h]
  rfl

/-! SMP, by the action its transition takes: each equation from conditions on the state before the step. -/

theorem smpFor_seed (p : Build) (x : Sample) (s : State) (h : transition s.lastSample x = true)
    (hp : s.phase = .unsynchronised) :
    smpFor p x s = closeStep (sampleTaken x (seed p s.inSampleCount (openStep 0b00#2 s))) := by
  rw [smpFor_transition p x s h, syncStep_unsynchronised p _ _ x (openStep 0b00#2 s) hp]

theorem smpFor_firstHalf (p : Build) (x : Sample) (s : State) (h : transition s.lastSample x = true)
    (hp : s.phase = .firstTransition) (hm : midWindow p (halfPeriod s) (timingError s s.inSampleCount) = true) :
    smpFor p x s = closeStep (sampleTaken x (halfBit (openStep 0b00#2 s))) := by
  rw [smpFor_transition p x s h, syncStep_firstTransition p _ _ x (openStep 0b00#2 s) hp,
    firstTransitionStep_half p _ (openStep 0b00#2 s) hm]

theorem smpFor_correct (p : Build) (x : Sample) (s : State) (h : transition s.lastSample x = true)
    (hp : s.phase = .firstTransition) (hm : midWindow p (halfPeriod s) (timingError s s.inSampleCount) = false)
    (hl : lateWindow p (halfPeriod s) (timingError s s.inSampleCount) = true) :
    smpFor p x s = closeStep (sampleTaken x (correct (halfPeriod s) (openStep 0b00#2 s))) := by
  rw [smpFor_transition p x s h, syncStep_firstTransition p _ _ x (openStep 0b00#2 s) hp,
    firstTransitionStep_correct p _ (openStep 0b00#2 s) hm hl]
  rfl

theorem smpFor_acquire (p : Build) (x : Sample) (s : State) (h : transition s.lastSample x = true)
    (hp : s.phase = .firstTransition) (hm : midWindow p (halfPeriod s) (timingError s s.inSampleCount) = false)
    (hl : lateWindow p (halfPeriod s) (timingError s s.inSampleCount) = false)
    (hc : centreWindow p (timingError s s.inSampleCount) = true) :
    smpFor p x s = closeStep (sampleTaken x (acquire (openStep 0b00#2 s))) := by
  rw [smpFor_transition p x s h, syncStep_firstTransition p _ _ x (openStep 0b00#2 s) hp,
    firstTransitionStep_acquire p _ (openStep 0b00#2 s) hm hl hc]

theorem smpFor_acqFail (p : Build) (x : Sample) (s : State) (h : transition s.lastSample x = true)
    (hp : s.phase = .firstTransition) (hm : midWindow p (halfPeriod s) (timingError s s.inSampleCount) = false)
    (hl : lateWindow p (halfPeriod s) (timingError s s.inSampleCount) = false)
    (hc : centreWindow p (timingError s s.inSampleCount) = false) :
    smpFor p x s = closeStep (sampleTaken x (acqFail (openStep 0b00#2 s))) := by
  rw [smpFor_transition p x s h, syncStep_firstTransition p _ _ x (openStep 0b00#2 s) hp,
    firstTransitionStep_acqFail p _ (openStep 0b00#2 s) hm hl hc]

theorem smpFor_half (p : Build) (x : Sample) (s : State) (h : transition s.lastSample x = true)
    (hp : s.phase = .synchronised) (hm : midWindow p (halfPeriod s) (timingError s s.inSampleCount) = true) :
    smpFor p x s = closeStep (sampleTaken x (halfBit (openStep 0b00#2 s))) := by
  rw [smpFor_transition p x s h, syncStep_synchronised p _ _ x (openStep 0b00#2 s) hp,
    synchronisedStep_half p _ _ x (openStep 0b00#2 s) hm]

theorem smpFor_lost (p : Build) (x : Sample) (s : State) (h : transition s.lastSample x = true)
    (hp : s.phase = .synchronised) (hm : midWindow p (halfPeriod s) (timingError s s.inSampleCount) = false)
    (hc : centreWindow p (timingError s s.inSampleCount) = false) :
    smpFor p x s = closeStep (sampleTaken x (lost (openStep 0b00#2 s))) := by
  rw [smpFor_transition p x s h, syncStep_synchronised p _ _ x (openStep 0b00#2 s) hp,
    synchronisedStep_lost p _ _ x (openStep 0b00#2 s) hm hc]

/-- The work of a BIT right before the framer acts (R141). -/
def bitWork (p : Build) (e : Binary64) (x : Sample) (w : Work) : Work where
  st := { w.st with d := nudgedPeriod p w.st.d e, next := Fp.add w.st.next (nudgedPeriod p w.st.d e) }
  resp := { w.resp with sev := .bit, bitValid := true, bit := decodedBit x }

theorem bitCentre_eq (p : Build) (e : Binary64) (off : Word64) (x : Sample) (w : Work) :
    bitCentre p e off x w = framerBit p (decodedBit x) off (bitWork p e x w) := rfl

theorem smpFor_bit (p : Build) (x : Sample) (s : State) (h : transition s.lastSample x = true)
    (hp : s.phase = .synchronised) (hm : midWindow p (halfPeriod s) (timingError s s.inSampleCount) = false)
    (hc : centreWindow p (timingError s s.inSampleCount) = true) :
    smpFor p x s = closeStep (sampleTaken x (framerBit p (decodedBit x) s.blockOffset
      (bitWork p (timingError s s.inSampleCount) x (openStep 0b00#2 s)))) := by
  rw [smpFor_transition p x s h, syncStep_synchronised p _ _ x (openStep 0b00#2 s) hp,
    synchronisedStep_bit p _ _ x (openStep 0b00#2 s) hm hc, bitCentre_eq]
  rfl

/-- The work of a decoded bit as the framer acts on it, with ANY period `d`, prediction `next`, accumulator `acc` and
bit: laws over it hold for all of these, so that no proof compares two states through the arithmetic behind them. -/
def bitTakenWork (s : State) (d next : Binary64) (acc : Word64) (bit : Bool) : Work where
  st := { s with d := d, next := next, acc := acc }
  resp := { (openStep 0b00#2 s).resp with sev := .bit, bitValid := true, bit := bit }

theorem shifted_bitWork (p : Build) (e : Binary64) (x : Sample) (s : State) {d next : Binary64} {acc : Word64}
    (hd : nudgedPeriod p s.d e = d) (hn : Fp.add s.next d = next) (ha : shiftIn s.acc (decodedBit x) = acc) :
    shifted (decodedBit x) (bitWork p e x (openStep 0b00#2 s)) = bitTakenWork s d next acc (decodedBit x) := by
  unfold shifted bitWork bitTakenWork
  rw [openStep_st, hd, hn, ha]

@[simp] theorem bitWork_sev (p : Build) (e : Binary64) (x : Sample) (w : Work) : (bitWork p e x w).resp.sev = .bit := rfl

theorem bitWork_fphase (p : Build) (e : Binary64) (x : Sample) (w : Work) :
    (bitWork p e x w).st.fphase = w.st.fphase := by
  have h (d next : Binary64) : ({ w.st with d := d, next := next } : State).fphase = w.st.fphase := rfl
  exact h _ _

/-- SMP with a bit-centre transition while a tag is awaited: the work is the state with the new period, prediction and
accumulator, and the framer tests for a tag. -/
theorem smpFor_bit_awaitTag (p : Build) (x : Sample) (s : State) (h : transition s.lastSample x = true)
    (hp : s.phase = .synchronised) (hm : midWindow p (halfPeriod s) (timingError s s.inSampleCount) = false)
    (hc : centreWindow p (timingError s s.inSampleCount) = true) (hf : s.fphase = .awaitTag) {d next : Binary64}
    {acc : Word64} (hd : nudgedPeriod p s.d (timingError s s.inSampleCount) = d) (hn : Fp.add s.next d = next)
    (ha : shiftIn s.acc (decodedBit x) = acc) :
    smpFor p x s =
      closeStep (sampleTaken x (awaitTag p s.blockOffset (bitTakenWork s d next acc (decodedBit x)))) := by
  rw [smpFor_bit p x s h hp hm hc, framerBit_awaitTag _ _ _ _ ((bitWork_fphase _ _ _ _).trans hf),
    shifted_bitWork p _ x s hd hn ha]

/-- SMP with a bit-centre transition while a tail is consumed. -/
theorem smpFor_bit_consumeTail (p : Build) (x : Sample) (s : State) (h : transition s.lastSample x = true)
    (hp : s.phase = .synchronised) (hm : midWindow p (halfPeriod s) (timingError s s.inSampleCount) = false)
    (hc : centreWindow p (timingError s s.inSampleCount) = true) (hf : s.fphase = .consumeTail) {d next : Binary64}
    {acc : Word64} (hd : nudgedPeriod p s.d (timingError s s.inSampleCount) = d) (hn : Fp.add s.next d = next)
    (ha : shiftIn s.acc (decodedBit x) = acc) :
    smpFor p x s = closeStep (sampleTaken x (consumeTail (bitTakenWork s d next acc (decodedBit x)))) := by
  rw [smpFor_bit p x s h hp hm hc, framerBit_consumeTail _ _ _ _ ((bitWork_fphase _ _ _ _).trans hf),
    shifted_bitWork p _ x s hd hn ha]

/-- Everything an SMP can do, said once. -/
theorem smpFor_cases (p : Build) (x : Sample) (s : State) :
    (transition s.lastSample x = false ∧ smpFor p x s = closeStep (sampleTaken x (openStep 0b00#2 s))) ∨
    (transition s.lastSample x = true ∧
      ((s.phase = .unsynchronised ∧
          smpFor p x s = closeStep (sampleTaken x (seed p s.inSampleCount (openStep 0b00#2 s)))) ∨
        (s.phase = .firstTransition ∧
          ((midWindow p (halfPeriod s) (timingError s s.inSampleCount) = true ∧
              smpFor p x s = closeStep (sampleTaken x (halfBit (openStep 0b00#2 s)))) ∨
            (midWindow p (halfPeriod s) (timingError s s.inSampleCount) = false ∧
              lateWindow p (halfPeriod s) (timingError s s.inSampleCount) = true ∧
              smpFor p x s = closeStep (sampleTaken x (correct (halfPeriod s) (openStep 0b00#2 s)))) ∨
            (midWindow p (halfPeriod s) (timingError s s.inSampleCount) = false ∧
              lateWindow p (halfPeriod s) (timingError s s.inSampleCount) = false ∧
              centreWindow p (timingError s s.inSampleCount) = true ∧
              smpFor p x s = closeStep (sampleTaken x (acquire (openStep 0b00#2 s)))) ∨
            (midWindow p (halfPeriod s) (timingError s s.inSampleCount) = false ∧
              lateWindow p (halfPeriod s) (timingError s s.inSampleCount) = false ∧
              centreWindow p (timingError s s.inSampleCount) = false ∧
              smpFor p x s = closeStep (sampleTaken x (acqFail (openStep 0b00#2 s)))))) ∨
        (s.phase = .synchronised ∧
          ((midWindow p (halfPeriod s) (timingError s s.inSampleCount) = true ∧
              smpFor p x s = closeStep (sampleTaken x (halfBit (openStep 0b00#2 s)))) ∨
            (midWindow p (halfPeriod s) (timingError s s.inSampleCount) = false ∧
              centreWindow p (timingError s s.inSampleCount) = true ∧
              smpFor p x s = closeStep (sampleTaken x (framerBit p (decodedBit x) s.blockOffset
                (bitWork p (timingError s s.inSampleCount) x (openStep 0b00#2 s))))) ∨
            (midWindow p (halfPeriod s) (timingError s s.inSampleCount) = false ∧
              centreWindow p (timingError s s.inSampleCount) = false ∧
              smpFor p x s = closeStep (sampleTaken x (lost (openStep 0b00#2 s)))))))) := by
  cases h : transition s.lastSample x
  · exact .inl ⟨rfl, smpFor_quiet p x s h⟩
  refine .inr ⟨rfl, ?_⟩
  cases hp : s.phase
  · exact .inl ⟨rfl, smpFor_seed p x s h hp⟩
  · refine .inr (.inl ⟨rfl, ?_⟩)
    cases hm : midWindow p (halfPeriod s) (timingError s s.inSampleCount)
    · cases hl : lateWindow p (halfPeriod s) (timingError s s.inSampleCount)
      · cases hc : centreWindow p (timingError s s.inSampleCount)
        · exact .inr (.inr (.inr ⟨rfl, rfl, rfl, smpFor_acqFail p x s h hp hm hl hc⟩))
        · exact .inr (.inr (.inl ⟨rfl, rfl, rfl, smpFor_acquire p x s h hp hm hl hc⟩))
      · exact .inr (.inl ⟨rfl, rfl, smpFor_correct p x s h hp hm hl⟩)
    · exact .inl ⟨rfl, smpFor_firstHalf p x s h hp hm⟩
  · refine .inr (.inr ⟨rfl, ?_⟩)
    cases hm : midWindow p (halfPeriod s) (timingError s s.inSampleCount)
    · cases hc : centreWindow p (timingError s s.inSampleCount)
      · exact .inr (.inr ⟨rfl, rfl, smpFor_lost p x s h hp hm hc⟩)
      · exact .inr (.inl ⟨rfl, rfl, smpFor_bit p x s h hp hm hc⟩)
    · exact .inl ⟨rfl, smpFor_half p x s h hp hm⟩

end Sys2Proof.Machine
end

