-- ==== Sys2Proof/Laws/PerInstr.lean ====
section
/-!
SUPPORT. Laws stated for every command, one lemma per constructor: a beat carries both fields of the command it encodes.
-/

namespace Sys2Proof.Laws.EncodeFields

/-- The beat of a command carries its `op` in bits 65..64 and its payload in bits 63..0 (30_encoding.md R71). -/
def Statement (i : Instr) : Prop := beatOp (encode i) = i.op ∧ beatPayload (encode i) = i.payload

/-- It holds of any two fields put together. -/
theorem of_fields (o : BitVec 2) (v : Word64) :
    beatOp (o ++ v : BitVec (2 + 64)) = o ∧ beatPayload (o ++ v : BitVec (2 + 64)) = v := by
  have ho := o.isLt
  have hv := v.isLt
  have h : (o ++ v : BitVec (2 + 64)).toNat = o.toNat * 2 ^ 64 + v.toNat := by
    rw [BitVec.toNat_append, ← Nat.shiftLeft_add_eq_or_of_lt hv, Nat.shiftLeft_eq]
  constructor <;> apply BitVec.eq_of_toNat_eq
  · rw [beatOp, BitVec.extractLsb_toNat, h, Nat.shiftRight_eq_div_pow]
    omega
  · rw [beatPayload, BitVec.extractLsb_toNat, h, Nat.shiftRight_eq_div_pow]
    omega

theorem smp (x : Sample) (ignored : BitVec 48) : Statement (.smp x ignored) := of_fields _ _

theorem blk (t : Word64) : Statement (.blk t) := of_fields _ _

theorem rsv2 (payload : Word64) : Statement (.rsv2 payload) := of_fields _ _

theorem rsv3 (payload : Word64) : Statement (.rsv3 payload) := of_fields _ _

end Sys2Proof.Laws.EncodeFields
end

