-- ==== Sys2Proof/WellFormed.lean ====
section
/-!
DEFINITION. Which commands a host that follows the spec writes. The block performs every other beat as well, so no
operation asks for this check: it marks the one thing the spec asks of the host about a beat.
-/

namespace Sys2Proof

/-- A host should write the ignored payload bits of SMP as zero (30_encoding.md R72, U5); it may write any timestamp
(R73), and the payload of a reserved code is not constrained (R74, R90). -/
def Instr.wellFormed : Instr → Bool
  | .smp _ ignored => decide (ignored = 0)
  | .blk _ => true
  | .rsv2 _ => true
  | .rsv3 _ => true

end Sys2Proof
end

