-- ==== Sys2Proof/Tests/Slice0.lean ====
section
/-!
SUPPORT. The model's own tests. Expected values are those of 95_test_vectors.md, 30_encoding.md and 44_crc.md unless a
comment says otherwise; each `witness_` theorem shows states and operands that meet the hypotheses of the obligation it
is named after.
-/

namespace Sys2Proof.Tests

open Sys2Proof.Machine Sys2Proof.Spec

/-! Well-formedness, decoding, encoding. -/

/-- The smoke test of the one check: a set bit among the ignored ones is refused, at either end of the field. -/
theorem test_ill_formed_smp :
    Instr.wellFormed (.smp 5 1) = false ∧ Instr.wellFormed (.smp 5 0x800000000000) = false ∧
      Instr.wellFormed (.smp 5 0) = true := by decide

/-- R72: `op = 00`, the sample in the low sixteen bits; here -2, and the ignored bits 101...01. -/
theorem test_decode_smp :
    decode 0b00_101010101010101010101010101010101010101010101010_1111111111111110 = .smp (-2) 0xAAAAAAAAAAAA := by
  decide

/-- R73: `op = 01`, the timestamp in the low sixty-four bits; here 1000000 = 0xF4240. -/
theorem test_decode_blk :
    decode 0b01_0000000000000000000000000000000000000000000011110100001001000000 = .blk 1000000 := by decide

/-- R74: `op = 10`. -/
theorem test_decode_rsv2 :
    decode 0b10_1000000000000000000000000000000000000000000000000000000000000001 = .rsv2 0x8000000000000001 := by
  decide

/-- R74: `op = 11`. -/
theorem test_decode_rsv3 :
    decode 0b11_1111111111111111111111111111111111111111111111111111111111111110 = .rsv3 0xFFFFFFFFFFFFFFFE := by
  decide

/-- 95_test_vectors.md section 2.1. -/
theorem test_decode_vectors :
    ∀ c ∈ ([(0x0123456789ABCFFFF, .smp (-1) 0x123456789ABC), (0x1FFFFFFFFFFFFFFFF, .blk 18446744073709551615),
        (0x3FFFFFFFFFFFFFFFF, .rsv3 0xFFFFFFFFFFFFFFFF)] : List (Beat × Instr)),
      decode c.1 = c.2 ∧ encode c.2 = c.1 := by decide

/-- A number that does not fit the 66-bit port spells no command; in a wider field its upper bits must be 0. -/
theorem test_decodeTableWord :
    decodeTableWord 66 0x10000000000000007 = some (.blk 7) ∧ decodeTableWord 72 0x20000000000000007 = some (.rsv2 7) ∧
      decodeTableWord 72 0x40000000000000007 = none := by decide

/-! The assembler (R90 to R93). -/

/-- The lines of R94's listing, a directive, and one line for each error. -/
theorem test_assembleLine :
    assembleLine standardBuild ['S', 'M', 'P', ' ', '-', '8', '0', '0', '0', ' ', ';', 'a'] =
        .ok [.command 0x0000000000000E0C0] ∧
      assembleLine standardBuild ['B', 'L', 'K', ' ', '0', 'x', '1', 'F'] = .ok [.command 0x1000000000000001F] ∧
      assembleLine standardBuild ['R', 'E', 'S', 'E', 'T'] = .ok [.reset] ∧
      assembleLine standardBuild ['R', 'U', 'N', ' ', '7', ',', ' ', '2'] = .ok [.command 7, .command 7] ∧
      assembleLine standardBuild ['S', 'M', 'P', ' ', '3', '2', '7', '6', '8'] = .error .outOfRange ∧
      assembleLine standardBuild ['S', 'M', 'P'] = .error .operandCount ∧
      assembleLine standardBuild ['N', 'O', 'P'] = .error .unknownMnemonic ∧
      assembleLine standardBuild ['B', 'L', 'K', ' ', 'x'] = .error .badOperand := by decide

/-- `MANCH 8000, "10"` at the defaults: 75 samples, 19 high, 38 low, 18 high (R93). -/
theorem test_manch :
    assembleLine standardBuild ['M', 'A', 'N', 'C', 'H', ' ', '8', '0', '0', '0', ',', ' ', '"', '1', '0', '"'] =
      .ok (offerSamples (runSamples 8000 19 ++ runSamples (-8000) 38 ++ runSamples 8000 18)) := by decide +kernel

/-! The response port. -/

/-- 95_test_vectors.md section 2.1: the beats of `BLK 0`, `SMP -5` and `RSV3 0` right after reset. -/
theorem test_response_beats :
    oResp (blkFor 0 State.reset) = some 1 ∧
      oResp (smpFor standardBuild (-5) State.reset) =
        some 0x04000000000000000000000000000000000000000000000000000000000000000000000000000000000000080000000000000000 ∧
      oResp (reservedFor 0b11#2 State.reset) = some 7 ∧ oValid State.reset = false := by decide +kernel

/-- The beat of P2 at index 5382, from its fields (95_test_vectors.md sections 2.1 and 3). -/
theorem test_descriptor_beat :
    packResponse { Response.zero with
        idx := 5382
        sev := .bit
        bitValid := true
        fev := .doneOk
        descValid := true
        descLen := 16
        descData := descLanes [0x08, 0x44, 0x54, 0x47, 0x41, 0x44, 0x01, 0x0A, 0, 0, 0, 0, 0, 0, 0x3E, 0x44]
        tsBlock := 1000000
        tsOff := 2982
        phase := .synchronised } =
      0x080000000000002E9800000000003D09000000000000000110F8000000000000280511051D51102210000A68000000000000A830 := by
  decide +kernel

/-! The transition detector. -/

/-- 95_test_vectors.md section 2.2: for each pair of samples, whether it is a transition and the bit it would give. -/
theorem test_transitions :
    ([(0, 0), (0, -1), (-1, 0), (1, 0), (32767, -32768), (-32768, -1), (-1, 32767), (8000, 8000)] :
        List (Sample × Sample)).map (fun c => (transition c.1 c.2, decodedBit c.2)) =
      [(false, false), (true, true), (true, false), (false, false), (true, true), (false, true), (true, false),
        (false, false)] := by decide

/-! The synchronizer. -/

/-- A build with other rates and the example tag of 95_test_vectors.md. -/
def buildAt (fs dataRate : Nat) : Build :=
  (buildOf { Config.standard with fs := fs, dataRate := dataRate, tag := 0x4454474144 }).getD standardBuild

/-- A state right before the sample with index `i`, the level being positive. -/
def before (phase : Phase) (d next : Binary64) (i : Nat) : State :=
  { State.reset with phase := phase, d := d, next := next, lastSample := 8000, inSampleCount := BitVec.ofNat 64 i }

/-- What one transition to a negative sample does: event, framer event, period, prediction. -/
def fall (p : Build) (s : State) : Option (SyncEvent × FramerEvent) × Binary64 × Binary64 :=
  let t := smpFor p (-8000) s
  (t.out.map (fun r => (r.sev, r.fev)), t.d, t.next)

/-- 95_test_vectors.md section 2.4, the defaults: SMP in both locked phases. -/
theorem test_smp_defaults :
    ∀ c ∈ ([(.firstTransition, 0x4061300000000000, 114, .half, .none, 0x4042C00000000000, 0x4061300000000000),
        (.firstTransition, 0x4061300000000000, 113, .acqFail, .none, 0x4042C00000000000, 0x4061300000000000),
        (.firstTransition, 0x4061300000000000, 156, .correct, .none, 0x4042C00000000000, 0x405DB00000000000),
        (.firstTransition, 0x4061300000000000, 138, .acquire, .none, 0x4042C00000000000, 0x4065E00000000000),
        (.synchronised, 0x4065E00000000000, 157, .half, .none, 0x4042C00000000000, 0x4065E00000000000)] :
        List (Phase × Binary64 × Nat × SyncEvent × FramerEvent × Binary64 × Binary64)),
      fall standardBuild (before c.1 0x4042C00000000000 c.2.1 c.2.2.1) =
        (some (c.2.2.2.1, c.2.2.2.2.1), c.2.2.2.2.2) := by decide +kernel

/-- 95_test_vectors.md section 2.4, config B: the closed edges of the windows, the nudges, and no LATE test in
SYNCHRONISED. -/
theorem test_smp_configB :
    ∀ c ∈ ([(.firstTransition, 0x4044800000000000, 16, .half, .none, 0x4044000000000000, 0x4044800000000000),
        (.firstTransition, 0x4044800000000000, 36, .acquire, .none, 0x4044000000000000, 0x4054400000000000),
        (.firstTransition, 0x4044800000000000, 66, .correct, .none, 0x4044000000000000, 0x4035000000000000),
        (.firstTransition, 0x4044800000000000, 67, .acqFail, .none, 0x4044000000000000, 0x4044800000000000),
        (.synchronised, 0x4054400000000000, 76, .bit, .shift, 0x4043C00000000000, 0x405E200000000000),
        (.synchronised, 0x4054400000000000, 82, .bit, .shift, 0x40440CCCCCCCCCCD, 0x405E466666666666),
        (.synchronised, 0x4054400000000000, 87, .lost, .disc, 0x4044000000000000, 0x4054400000000000),
        (.synchronised, 0x4054400000000000, 101, .lost, .disc, 0x4044000000000000, 0x4054400000000000)] :
        List (Phase × Binary64 × Nat × SyncEvent × FramerEvent × Binary64 × Binary64)),
      fall (buildAt 8000 200) (before c.1 0x4044000000000000 c.2.1 c.2.2.1) =
        (some (c.2.2.2.1, c.2.2.2.2.1), c.2.2.2.2.2) := by decide +kernel

/-- D2: a BLK between two samples resets the offset, keeps the index, and reports it. -/
theorem test_blk :
    (blkFor 5 { State.reset with blockOffset := 9, inSampleCount := 9 }).blockOffset = 0 ∧
      (blkFor 5 { State.reset with blockOffset := 9, inSampleCount := 9 }).inSampleCount = 9 ∧
      ((blkFor 5 { State.reset with blockOffset := 9, inSampleCount := 9 }).out.map Response.idx) = some 9 := by
  decide +kernel

/-- D3: the reserved codes report ILL with their `op`. -/
theorem test_reserved :
    ((performFor standardBuild (.rsv2 0x1234) State.reset).out.map (fun r => (r.ill, r.op))) = some (true, 0b10#2) ∧
      ((performFor standardBuild (.rsv3 0) State.reset).out.map (fun r => (r.ill, r.op))) = some (true, 0b11#2) := by
  decide +kernel

/-! The framer. -/

/-- The reset framer fed with the bits of some bytes, with the example tag. -/
def fed (bytes : List Byte) : Work :=
  feedBits (buildAt 48000 1280) 7 (recordBits bytes) (openStep 0b00#2 State.reset)

/-- 95_test_vectors.md section 2.5, F1 to F5: the event, the accumulator, `blen` and `rem` after bit 64. -/
theorem test_framer_tags :
    ∀ c ∈ ([([0x03, 0x44, 0x54, 0x47, 0x41, 0x44, 0x01, 0x10], .tagReject, 0x0344544741440110, 0, 0),
        ([0x08, 0x44, 0x54, 0x47, 0x41, 0x44, 0x01, 0x0A], .tagOpen, 0x084454474144010A, 16, 64),
        ([0xF8, 0x44, 0x54, 0x47, 0x41, 0x44, 0x01, 0x0A], .tagOpen, 0xF84454474144010A, 16, 64),
        ([0x0F, 0x44, 0x54, 0x47, 0x41, 0x44, 0x02, 0xFF], .tagOpen, 0x0F445447414402FF, 23, 120),
        ([0x07, 0x44, 0x54, 0x47, 0x41, 0x44, 0x00, 0x00], .tagReject, 0x0744544741440000, 0, 0)] :
        List (List Byte × FramerEvent × Word64 × BitVec 5 × BitVec 7)),
      (fed c.1).resp.fev = c.2.1 ∧ (fed c.1).st.acc = c.2.2.1 ∧ (fed c.1).st.blen = c.2.2.2.1 ∧
        (fed c.1).st.rem = c.2.2.2.2 := by decide +kernel

/-- F6, and the example of R166: eight tail bits 0 after F2 take `rem` from 64 to 56 and append one byte at the eighth.
After the first of them `wcur + rem/8` is 8 + 7 and `blen` is 16 (notes, entry 11). -/
theorem test_framer_tail :
    let after := fun n : Nat =>
      let w := feedBits (buildAt 48000 1280) 7 (List.replicate n false)
        (fed [0x08, 0x44, 0x54, 0x47, 0x41, 0x44, 0x01, 0x0A])
      (w.resp.fev, w.st.blen, w.st.wcur, w.st.rem)
    after 1 = (.tail, 16, 8, 63) ∧ after 7 = (.tail, 16, 8, 57) ∧ after 8 = (.tail, 16, 9, 56) := by decide +kernel

/-- The longest frame, F7. -/
theorem test_framer_longest :
    let w := fed [0x0F, 0x44, 0x54, 0x47, 0x41, 0x44, 0x02, 0xFF, 1, 2, 3, 4, 5, 6, 7, 8, 9, 0x0A, 0x0B, 0x0C, 0x0D, 0x9D,
      0x8D]
    w.resp.fev = .doneOk ∧ w.resp.crc = 0 ∧ w.resp.descLen = 23 ∧ w.st.acc = 0x08090A0B0C0D9D8D ∧
      w.st.fphase = .awaitTag := by decide +kernel

/-! The CRC. -/

/-- 95_test_vectors.md section 2.6, CR1 to CR6, CR8, CR9 and CR13. -/
theorem test_crc :
    ∀ c ∈ ([([], 0x1D0F), ([0x31, 0x32, 0x33, 0x34, 0x35, 0x36, 0x37, 0x38, 0x39], 0xE5CC), ([0x00], 0xCC9C),
        ([0xFF], 0xD26C), ([0x41], 0x9479), ([0x08, 0x44, 0x54, 0x47, 0x41, 0x44, 0x01, 0x0A], 0xA87E),
        ([0x08, 0x44, 0x54, 0x47, 0x41, 0x44, 0x01, 0x0A, 0, 0, 0, 0, 0, 0, 0x3E, 0x44], 0),
        ([0x08, 0x44, 0x54, 0x47, 0x41, 0x44, 0x01, 0x0A, 0, 0, 0, 0, 0, 0, 0x44, 0x3E], 0x384F),
        ([0x08, 0x44, 0x54, 0x47, 0x41, 0x44, 0x01, 0x0A, 0, 0, 0, 0, 0, 0, 0, 0x93], 0x9D00)] :
        List (List Byte × BitVec 16)),
      crc16 c.1 = c.2 := by decide +kernel

/-! Binary64. -/

/-- R141's vectors as sums and products: `40 + 1 * DAMP`, `81 + 40.1`; a tie to even at 2^53 + 1; the infinite cases of
IEEE 754. -/
theorem test_binary64 :
    Fp.add 0x4044000000000000 (Fp.mul 0x3FF0000000000000 damp) = 0x40440CCCCCCCCCCD ∧
      Fp.add 0x4054400000000000 0x40440CCCCCCCCCCD = 0x405E466666666666 ∧
      Fp.ofInt 9007199254740993 = 0x4340000000000000 ∧ Fp.ofInt (2 ^ 1024) = 0x7FF0000000000000 ∧
      Fp.div 0x3FF0000000000000 0x8000000000000000 = 0xFFF0000000000000 ∧
      Fp.addValue (Fp.unpack 0x7FF0000000000000) (Fp.unpack 0x7FF0000000000000).negate = none := by decide +kernel

/-- IEEE 754 overflow: a sum on the threshold is an infinity of its sign, one right below it the greatest finite value. -/
theorem test_overflow :
    Fp.add 0x7FEFFFFFFFFFFFFF 0x7C90000000000000 = 0x7FF0000000000000 ∧
      Fp.add 0x7FEFFFFFFFFFFFFF 0x7C8FFFFFFFFFFFFF = 0x7FEFFFFFFFFFFFFF ∧
      Fp.mul 0xFFEFFFFFFFFFFFFF 0x4000000000000000 = 0xFFF0000000000000 := by decide +kernel

/-! Witnesses: states and operands that meet the hypotheses of the obligations. -/

theorem witness_ignoredSampleBits :
    (0x0123456789ABCFFFF : Beat).extractLsb 65 64 = 0b00#2 ∧ (0x0000000000000FFFF : Beat).extractLsb 65 64 = 0b00#2 ∧
      (0x0123456789ABCFFFF : Beat).extractLsb 15 0 = (0x0000000000000FFFF : Beat).extractLsb 15 0 := by decide

/-- A command, a reset and nothing on the input: stepRuns, resetSetsEveryField, idleSteps. -/
theorem witness_input :
    { State.reset with pending := [offer (.blk 7)] }.pending = .command (encode (.blk 7)) :: [] ∧
      { State.reset with pending := [.reset] }.pending = .reset :: [] ∧ State.reset.pending = [] := ⟨rfl, rfl, rfl⟩

theorem witness_laterBlk : ∃ u, exec (.blk 1) State.reset = .next u := ⟨_, rfl⟩

theorem witness_reservedTransparent :
    ∃ t, exec (.rsv2 1) State.reset = .next t ∨ exec (.rsv3 1) State.reset = .next t := ⟨_, .inl rfl⟩

/-- No sign change: equal signs at both ends of each range. -/
theorem witness_sampleWithoutTransition :
    ¬SignChange 0 32767 ∧ ¬SignChange 32767 0 ∧ ¬SignChange (-1) (-32768) ∧ ¬SignChange (-32768) (-1) := by
  unfold SignChange
  decide

/-- A sign change at both sides of 0, from reset. -/
theorem witness_firstTransition :
    State.reset.phase = .unsynchronised ∧ SignChange State.reset.lastSample (-1) ∧ SignChange (-1) 0 := by
  unfold SignChange
  decide +kernel

/-- A half-bit transition at the closed edges of its window, `e + half = -5` and `e + half = 5`. -/
theorem witness_halfBit :
    ∀ c ∈ ([(.firstTransition, 0x4061B80000000000, 118), (.synchronised, 0x4061B80000000000, 118),
        (.synchronised, 0x4061B80000000000, 128)] : List (Phase × Binary64 × Nat)),
      (before c.1 period c.2.1 c.2.2).phase ≠ .unsynchronised ∧ SignChange (before c.1 period c.2.1 c.2.2).lastSample (-1) ∧
        Mid eps (before c.1 period c.2.1 c.2.2) := by
  unfold SignChange Mid
  decide +kernel

/-- The three transitions of FIRST_TRANSITION that are no half-bit, LATE and CEN at a closed edge of their window. -/
theorem witness_firstTransitionActions :
    (let s := before .firstTransition period 0x4061280000000000 161;
      s.phase = .firstTransition ∧ SignChange s.lastSample (-1) ∧ ¬Mid eps s ∧ Late eps s) ∧
    (let s := before .firstTransition period 0x4061000000000000 141;
      s.phase = .firstTransition ∧ SignChange s.lastSample (-1) ∧ ¬Mid eps s ∧ ¬Late eps s ∧ Cen eps s) ∧
    (let s := before .firstTransition period 0x4061000000000000 142;
      s.phase = .firstTransition ∧ SignChange s.lastSample (-1) ∧ ¬Mid eps s ∧ ¬Late eps s ∧ ¬Cen eps s) := by
  unfold SignChange Mid Late Cen
  decide +kernel

theorem witness_strayTransition :
    let s := before .synchronised period 0x4061000000000000 142
    s.phase = .synchronised ∧ SignChange s.lastSample (-1) ∧ ¬Mid eps s ∧ ¬Cen eps s := by
  unfold SignChange Mid Cen
  decide +kernel

/-- A locked state whose next centre transition is predicted at index 136, right before the sample with index 141: the
closed edge of the window. -/
def locked : State := { before .synchronised period 0x4061000000000000 141 with lastSample := -1 }

theorem locked_bitCentre (s : State) (hp : s.phase = .synchronised) (hl : s.lastSample = -1) (hd : s.d = period)
    (hn : s.next = 0x4061000000000000) (hi : s.inSampleCount = 141) : BitCentre 0 s := by
  refine ⟨hp, ?_, ?_, ?_⟩
  · rw [hl]
    unfold SignChange
    decide
  · unfold Mid err half index
    rw [hd, hn, hi]
    decide +kernel
  · unfold Cen err index
    rw [hn, hi]
    decide +kernel

/-- The accumulator right before the 0 that completes a tag: the length byte, the tag and two bytes, shifted once. -/
def accBefore (len : Byte) (tag : Tag) : Word64 := (len ++ tag ++ 0#16 : BitVec (8 + 40 + 16)) >>> 1

theorem accBefore_shifted (len : Byte) (tag : Tag) (s : State) (h : s.acc = accBefore len tag) :
    (shiftedAcc 0 s).extractLsb' 16 40 = tag ∧ ((shiftedAcc 0 s).extractLsb' 56 4).toNat = len.toNat % 16 := by
  have hv : (len ++ tag ++ 0#16 : BitVec (8 + 40 + 16)).toNat = len.toNat * 2 ^ 56 + tag.toNat * 2 ^ 16 := by
    rw [BitVec.toNat_append, ← Nat.shiftLeft_add_eq_or_of_lt (0#16).isLt, BitVec.toNat_append,
      ← Nat.shiftLeft_add_eq_or_of_lt tag.isLt, Nat.shiftLeft_eq, Nat.shiftLeft_eq]
    simp
    omega
  have hl := len.isLt
  have ht := tag.isLt
  have hs : (shiftedAcc 0 s).toNat = len.toNat * 2 ^ 56 + tag.toNat * 2 ^ 16 := by
    unfold shiftedAcc accBefore at *
    rw [h, if_neg (by decide)]
    simp only [BitVec.ofNat_eq_ofNat, BitVec.or_zero, BitVec.toNat_shiftLeft, BitVec.toNat_ushiftRight, hv, Nat.shiftLeft_eq,
      Nat.shiftRight_eq_div_pow]
    omega
  constructor
  · apply BitVec.eq_of_toNat_eq
    rw [BitVec.extractLsb'_toNat, hs, Nat.shiftRight_eq_div_pow]
    omega
  · rw [BitVec.extractLsb'_toNat, hs, Nat.shiftRight_eq_div_pow]
    omega

/-- A tag is found, with the least length that opens a frame, the greatest, and the greatest that is rejected; and a
window that is no tag. -/
theorem witness_awaitTag :
    ∀ len : Byte, ∀ tag : Tag, ∃ s : State, BitCentre 0 s ∧ s.fphase = .awaitTag ∧
      (shiftedAcc 0 s).extractLsb' 16 40 = tag ∧ ((shiftedAcc 0 s).extractLsb' 56 4).toNat = len.toNat % 16 :=
  fun len tag => ⟨{ locked with acc := accBefore len tag }, locked_bitCentre _ rfl rfl rfl rfl rfl, rfl,
    accBefore_shifted len tag _ rfl⟩

theorem witness_tagOpens :
    ∃ s t u : State, BitCentre 0 s ∧ s.fphase = .awaitTag ∧ (shiftedAcc 0 s).extractLsb' 16 40 = Config.tag ∧
      ((shiftedAcc 0 s).extractLsb' 56 4).toNat = 8 ∧ (shiftedAcc 0 t).extractLsb' 16 40 = Config.tag ∧
      ((shiftedAcc 0 t).extractLsb' 56 4).toNat = 7 ∧ (shiftedAcc 0 u).extractLsb' 16 40 ≠ Config.tag := by
  obtain ⟨s, hs, hf, ht, hl⟩ := witness_awaitTag 8 Config.tag
  obtain ⟨t, -, -, ht', hl'⟩ := witness_awaitTag 7 Config.tag
  obtain ⟨u, -, -, hu, -⟩ := witness_awaitTag 8 (~~~Config.tag)
  refine ⟨s, t, u, hs, hf, ht, hl, ht', hl', ?_⟩
  rw [hu]
  intro h
  have := congrArg (BitVec.getLsbD · 0) h
  simp at this

/-- A state in the tail of the frame of program P2, with `rem` tail bits to come. -/
def inTail (wcur : BitVec 5) (rem : BitVec 7) : State :=
  { locked with
    fphase := .consumeTail
    buf := #v[0x08, 0x44, 0x54, 0x47, 0x41, 0x44, 0x01, 0x0A, 0, 0, 0, 0, 0, 0, 0x3E, 0, 0, 0, 0, 0, 0, 0, 0]
    blen := 16
    wcur := wcur
    rem := rem
    acc := 0x22
    frameTsBlock := 9
    frameTsOff := 5 }

theorem inTail_bitCentre (wcur : BitVec 5) (rem : BitVec 7) : BitCentre 0 (inTail wcur rem) :=
  locked_bitCentre _ rfl rfl rfl rfl rfl

/-- The tail bit that ends no byte, the one that ends a byte, the last one. -/
theorem witness_tail :
    (BitCentre 0 (inTail 8 64) ∧ (inTail 8 64).fphase = .consumeTail ∧ ((inTail 8 64).rem - 1).toNat % 8 ≠ 0) ∧
    (BitCentre 0 (inTail 14 9) ∧ (inTail 14 9).fphase = .consumeTail ∧ ((inTail 14 9).rem - 1).toNat % 8 = 0 ∧
      (inTail 14 9).rem ≠ 1 ∧ (inTail 14 9).wcur.toNat < maxFrame) ∧
    (BitCentre 0 (inTail 15 1) ∧ (inTail 15 1).fphase = .consumeTail ∧ (inTail 15 1).rem = 1 ∧ FrameInv (inTail 15 1)) :=
  ⟨⟨inTail_bitCentre _ _, rfl, by decide⟩, ⟨inTail_bitCentre _ _, rfl, by decide, by decide, by decide⟩,
    inTail_bitCentre _ _, rfl, rfl, ⟨nofun, fun _ => by decide, fun _ => by decide, fun _ => by decide⟩⟩

/-- A BIT that outputs a descriptor: descriptorLanes, responsesAreLegal, and a completion of fieldsAreWritten. -/
theorem witness_descriptor :
    FrameInv (inTail 15 1) ∧ ∃ t r, exec (.smp 0 0) (inTail 15 1) = .next t ∧ t.out = some r ∧ r.descValid = true ∧
      r.fev = .doneOk ∧ r.descLen = 16 ∧ r.tsOff = 5 :=
  ⟨witness_tail.2.2.2.2.2, smpFor standardBuild 0 (inTail 15 1),
    (smpFor standardBuild 0 (inTail 15 1)).out.getD Response.zero, rfl, by decide +kernel, by decide +kernel,
    by decide +kernel, by decide +kernel, by decide +kernel⟩

/-- A response without BIT and LOST, for every build. -/
theorem witness_framerUnchanged (p : Build) :
    ∃ r, (performFor p (.blk 3) State.reset).out = some r ∧ r.sev ≠ .bit ∧ r.sev ≠ .lost :=
  ⟨_, rfl, by decide, by decide⟩

/-- The transitions that write the phase, the period, the prediction and the accumulator, and the BLK that writes the timestamp. -/
theorem witness_fieldsWritten :
    (performFor standardBuild (.smp (-1) 0) State.reset).phase ≠ State.reset.phase ∧
      (performFor standardBuild (.smp (-1) 0) State.reset).next ≠ State.reset.next ∧
      (performFor standardBuild (.smp 0 0) (inTail 15 1)).d ≠ (inTail 15 1).d ∧
      (performFor standardBuild (.smp 0 0) (inTail 15 1)).acc ≠ (inTail 15 1).acc ∧
      (performFor standardBuild (.smp 0 0) (inTail 15 1)).blen ≠ (inTail 15 1).blen ∧
      (performFor standardBuild (.smp 0 0) (inTail 15 1)).buf ≠ (inTail 15 1).buf ∧
      (performFor standardBuild (.blk 3) State.reset).blockTs ≠ State.reset.blockTs := by decide +kernel

theorem witness_constantLevel :
    ∀ x ∈ ([0, 1, 32767] : List Sample), (x.toInt < 0 ↔ State.reset.lastSample.toInt < 0) := by
  have h : State.reset.lastSample = 0 := rfl
  simp [h]

/-- The clauses of the synchronizer's statement in a build with other rates, at the edges of its windows. -/
theorem witness_synchronizer :
    let p := buildAt 8000 200
    (let s := before .firstTransition 0x4044000000000000 0x4044800000000000 16; Mid p.params.eps s) ∧
    (let s := before .firstTransition 0x4044000000000000 0x4044800000000000 66;
      ¬Mid p.params.eps s ∧ Late p.params.eps s) ∧
    (let s := before .firstTransition 0x4044000000000000 0x4044800000000000 46;
      ¬Mid p.params.eps s ∧ ¬Late p.params.eps s ∧ Cen p.params.eps s) ∧
    (let s := before .firstTransition 0x4044000000000000 0x4044800000000000 47;
      ¬Mid p.params.eps s ∧ ¬Late p.params.eps s ∧ ¬Cen p.params.eps s) := by
  unfold Mid Late Cen
  decide +kernel

/-- Invariants that hold before a step: at reset, and inside a frame, where R35's rounded-down equation holds too. -/
theorem witness_invariants :
    (∃ t, Inv State.reset ∧ step State.reset = .next t) ∧
      ∃ t, Inv { inTail 8 64 with pending := [offer (.smp 0 0)] } ∧
        CursorRoundedDown { inTail 8 64 with pending := [offer (.smp 0 0)] } ∧
        step { inTail 8 64 with pending := [offer (.smp 0 0)] } = .next t :=
  ⟨⟨_, ⟨⟨fun _ => ⟨rfl, rfl, rfl⟩, nofun, nofun, nofun⟩, fun _ => ⟨rfl, rfl, rfl⟩, by unfold PeriodInv; decide +kernel⟩,
    step_eq_stepFor _⟩, _,
    ⟨⟨nofun, fun _ => by decide, fun _ => by decide, fun _ => by decide⟩, fun h => absurd rfl h,
      by unfold PeriodInv; decide +kernel⟩, fun _ => by decide, step_eq_stepFor _⟩

/-- A build with finite rates, and a positive period. -/
theorem witness_periodStaysPositive :
    Fp.isFinite (Fp.ofInt standardBuild.params.fs) = true ∧ Fp.isFinite (Fp.ofInt standardBuild.params.dataRate) = true ∧
      Fp.lt Fp.zero State.reset.d = true := by decide +kernel

/-- Config C of 95_test_vectors.md: the half period is `EPS`. -/
theorem witness_overlappingWindows :
    Fp.le (Fp.div (nominalPeriod (buildAt 1000 100)) Fp.two) (buildAt 1000 100).params.eps = true := by decide +kernel

/-- SEED at 100, CORRECT at 156, and the transition after it. -/
theorem witness_acqFailFollowsCorrect :
    let s := before .firstTransition period 0x4061300000000000 156
    let t := smpFor standardBuild (-1) s
    s.phase = .firstTransition ∧ s.d = period ∧ exec (.smp (-1) 0) s = .next t ∧
      (t.out.map Response.sev) = some .correct ∧ t.phase = .firstTransition ∧
        s.inSampleCount.toNat < t.inSampleCount.toNat ∧ t.inSampleCount.toNat < 2 ^ 53 ∧ SignChange t.lastSample 0 := by
  refine ⟨rfl, by decide +kernel, rfl, by decide +kernel, by decide +kernel, by decide +kernel, by decide +kernel, ?_⟩
  unfold SignChange
  decide +kernel

/-- A BIT whose error nudges the period. -/
theorem witness_periodNudge :
    Fp.isFinite locked.d = true ∧ Fp.lt Fp.zero locked.d = true ∧
      ((performFor (buildAt 48000 1280) (.smp 0 0) locked).out.map Response.sev) = some .bit := by decide +kernel

/-- Two different states that lose sync on one sample, then commands of every kind without a sign change, then one. -/
theorem witness_lossForgets :
    let s := before .synchronised period 0x4061000000000000 142
    let t := { s with acc := 7, d := 0x4043C00000000000 }
    ((performFor standardBuild (.smp (-1) 0) s).out.map Response.sev) = some .lost ∧
      ((performFor standardBuild (.smp (-1) 0) t).out.map Response.sev) = some .lost ∧ s ≠ t ∧ s.pending = t.pending ∧
      (∀ z k, Instr.smp z k ∈ [.smp (-32768) 0, .blk 3, .rsv2 0, .rsv3 1, .smp (-1) 5] → ¬SignChange (-1) z) ∧
      SignChange (-1) 0 := by
  refine ⟨by decide +kernel, by decide +kernel, by decide +kernel, rfl, fun z k h => ?_, ?_⟩
  · simp only [List.mem_cons, Instr.smp.injEq, reduceCtorEq, false_or, List.not_mem_nil, or_false] at h
    unfold SignChange
    rcases h with ⟨rfl, -⟩ | ⟨rfl, -⟩ <;> decide
  · unfold SignChange
    decide

/-- The work right before the 0 that completes the tag, in a build with the example tag, and a tail of the length that
its length byte asks for, at both ends of the length range. -/
theorem witness_frameRoundTrip :
    ∀ c ∈ ([(8, List.replicate 8 0), (15, List.replicate 15 0)] : List (Byte × List Byte)),
      let w := openStep 0b00#2 { State.reset with acc := accBefore c.1 0x4454474144 }
      let a := shiftIn w.st.acc false
      w.st.fphase = .awaitTag ∧ a.extractLsb' 16 40 = (buildAt 48000 1280).params.tag ∧
        8 ≤ (a.extractLsb' 56 4).toNat ∧ c.2.length = (a.extractLsb' 56 4).toNat := by decide +kernel

/-- Finite operands of either sign, the smallest magnitude and a zero among them; the infinities; a NaN. -/
theorem witness_binary64 :
    Fp.unpack 0x0000000000000001 = .fin false 1 ∧ Fp.unpack 0x8000000000000000 = .fin true 0 ∧
      Fp.unpack 0x7FF0000000000000 = .inf false ∧ Fp.unpack 0xFFF0000000000000 = .inf true ∧
      Fp.unpack 0x7FF8000000000000 = .nan := by decide

/-- Rounding at both sides of the overflow threshold: the greatest finite value and `2^970`, half a unit of its last
place, lie on it together; the smallest subnormal lies below it. -/
theorem witness_rounding :
    Fp.unpack 0x7C90000000000000 = .fin false (2 ^ 2044) ∧
      overflowUnits * 1 ≤ |Fp.units false ((2 ^ 53 - 1) * 2 ^ 2045) + Fp.units false (2 ^ 2044)| ∧
      |Fp.units false 1 + Fp.units true 0| < overflowUnits * 1 := by
  refine ⟨by decide +kernel, ?_, ?_⟩ <;> unfold overflowUnits Fp.units <;> decide +kernel

/-- A state inside a frame with whole bytes to come, and one inside a byte. -/
theorem witness_cursor :
    FrameInv (inTail 8 64) ∧ (inTail 8 64).fphase = .consumeTail ∧ (inTail 8 64).rem.toNat % 8 = 0 ∧
      FrameInv (inTail 15 1) ∧ (inTail 15 1).fphase = .consumeTail ∧ (inTail 15 1).rem.toNat % 8 ≠ 0 :=
  ⟨⟨nofun, fun _ => by decide, fun _ => by decide, fun _ => by decide⟩, rfl, by decide, witness_tail.2.2.2.2.2, rfl,
    by decide⟩

/-- The longest input that noFrameOpens speaks of, and its start. -/
theorem witness_noFrameOpens :
    (openStep 0b00#2 State.reset).st.acc = 0 ∧ (openStep 0b00#2 State.reset).st.fphase = .awaitTag ∧
      (List.replicate 59 true).length < 60 := ⟨rfl, rfl, by decide⟩

/-- Indices in range: responsesComeInOrder, pcmBytes, the modulator, both clauses of the CRC's statement. -/
theorem witness_indices :
    1 < [Instr.blk 0, .smp 0 0].length ∧ 2 * 0 + 1 < [(1 : Byte), 2].length ∧ 37 < manchLength standardBuild 1 ∧
      [(1 : Byte), 2].length = [(3 : Byte), 4].length := by decide

/-- The integers at both ends of smallIntegersConvertExactly. -/
theorem witness_smallIntegers : (2 ^ 53 : Int).natAbs ≤ 2 ^ 53 ∧ (-2 ^ 53 : Int).natAbs ≤ 2 ^ 53 := by decide +kernel

end Sys2Proof.Tests
end

section
/-!
PROOFS. What binary64 patterns stand for, their order, exact conversion of small integers, and NaNs (00_scope.md R14).
-/

namespace Sys2Proof.Fp

/-! The fields of a pattern. -/

/-- A pattern without its sign bit is its biased exponent and its fraction. -/
theorem toNat_fields_mod (n : Bool) (e : BitVec 11) (f : BitVec 52) :
    (BitVec.ofBool n ++ e ++ f : BitVec (1 + 11 + 52)).toNat % 2 ^ 63 = e.toNat * 2 ^ 52 + f.toNat := by
  have he := e.isLt
  have hf := f.isLt
  rw [BitVec.toNat_append, BitVec.toNat_append, ← Nat.shiftLeft_add_eq_or_of_lt hf, ← Nat.shiftLeft_add_eq_or_of_lt he,
    Nat.shiftLeft_eq, Nat.shiftLeft_eq]
  omega

theorem msb_fields (n : Bool) (e : BitVec 11) (f : BitVec 52) :
    (BitVec.ofBool n ++ e ++ f : BitVec (1 + 11 + 52)).msb = n := by
  rw [BitVec.msb_append, if_neg (by decide), BitVec.msb_append, if_neg (by decide), BitVec.msb_ofBool]

/-- `unpack` in terms of the fields. -/
theorem unpack_fields (n : Bool) (e : BitVec 11) (f : BitVec 52) :
    unpack (BitVec.ofBool n ++ e ++ f : BitVec (1 + 11 + 52)) =
      if e.toNat * 2 ^ 52 + f.toNat < infBits then .fin n (magnitude (e.toNat * 2 ^ 52 + f.toNat))
      else if e.toNat * 2 ^ 52 + f.toNat = infBits then .inf n else .nan := by
  simp only [unpack, toNat_fields_mod, msb_fields]

/-! Order. -/

theorem infUnits_pos : 0 < infUnits := by
  rw [← magnitude_infBits]
  exact Nat.zero_lt_of_lt (magnitude_strictMono (show 0 < infBits by decide))

/-- Every finite value lies strictly between the two infinities. -/
theorem units_between_infinities {a : Binary64} {n : Bool} {x : Nat} (h : unpack a = .fin n x) :
    -(infUnits : Int) < units n x ∧ units n x < infUnits := by
  obtain ⟨c, hc, rfl, -⟩ := finite_magnitude h
  have hlt : magnitude c < infUnits := magnitude_infBits ▸ magnitude_strictMono hc
  cases n <;> simp [units] <;> omega

theorem le_iff_of_key {a b : Binary64} {x y : Int} (ha : (unpack a).key = some x) (hb : (unpack b).key = some y) :
    le a b = true ↔ x ≤ y := by
  simp [le_iff, ha, hb]

theorem lt_iff_of_key {a b : Binary64} {x y : Int} (ha : (unpack a).key = some x) (hb : (unpack b).key = some y) :
    lt a b = true ↔ x < y := by
  simp [lt_iff, ha, hb]

theorem key_of_fin {a : Binary64} {n : Bool} {x : Nat} (h : unpack a = .fin n x) :
    (unpack a).key = some (units n x) := by
  rw [h, Value.key]

theorem key_of_inf {a : Binary64} {n : Bool} (h : unpack a = .inf n) :
    (unpack a).key = some (units n infUnits) := by
  rw [h, Value.key]

/-- A value that is no NaN has a place on the scale of `key`: -infinity alone at the lower end, +infinity alone at the
upper one. -/
theorem exists_key_of_ne_nan {b : Binary64} (h : unpack b ≠ .nan) :
    ∃ y, (unpack b).key = some y ∧ -(infUnits : Int) ≤ y ∧ y ≤ infUnits ∧
      (y = infUnits ↔ unpack b = .inf false) ∧ (y = -(infUnits : Int) ↔ unpack b = .inf true) := by
  have hpos := infUnits_pos
  cases hb : unpack b with
  | nan => exact absurd hb h
  | inf m => cases m <;> simp [Value.key, units] <;> omega
  | fin m y =>
    obtain ⟨hlo, hhi⟩ := units_between_infinities hb
    simp only [Value.key, Option.some.injEq, exists_eq_left', reduceCtorEq, iff_false]
    omega

/-- The comparisons of an infinity with a value that is no NaN: the infinity lies at its end of the scale. -/
theorem compare_inf {a b : Binary64} {n : Bool} (ha : unpack a = .inf n) (hb : unpack b ≠ .nan) :
    (le a b = true ↔ n = true ∨ unpack b = .inf false) ∧ (le b a = true ↔ n = false ∨ unpack b = .inf true) ∧
      (lt a b = true ↔ n = true ∧ unpack b ≠ .inf true) ∧ (lt b a = true ↔ n = false ∧ unpack b ≠ .inf false) := by
  have hpos := infUnits_pos
  obtain ⟨y, hy, hlo, hhi, htop, hbot⟩ := exists_key_of_ne_nan hb
  have hkey := key_of_inf ha
  rw [le_iff_of_key hkey hy, le_iff_of_key hy hkey, lt_iff_of_key hkey hy, lt_iff_of_key hy hkey, ne_eq, ne_eq,
    ← htop, ← hbot]
  cases n <;> simp [units] <;> omega

/-! The absolute value. -/

theorem toNat_fabs (a : Binary64) : (fabs a).toNat = a.toNat % 2 ^ 63 := by
  unfold fabs
  rw [BitVec.toNat_and]
  exact Nat.and_two_pow_sub_one_eq_mod a.toNat 63

theorem msb_fabs (a : Binary64) : (fabs a).msb = false := by
  rw [BitVec.msb_eq_decide, toNat_fabs, decide_eq_false_iff_not]
  omega

theorem setWidth_fabs (a : Binary64) : (fabs a).setWidth 63 = a.setWidth 63 := by
  apply BitVec.eq_of_toNat_eq
  rw [BitVec.toNat_setWidth, BitVec.toNat_setWidth, toNat_fabs, Nat.mod_mod]

/-- `fabs` keeps the kind of the value and its magnitude. -/
theorem unpack_fabs (a : Binary64) :
    unpack (fabs a) = match unpack a with
      | .nan => .nan
      | .inf _ => .inf false
      | .fin _ x => .fin false x := by
  simp only [unpack, toNat_fabs, msb_fabs, Nat.mod_mod]
  split
  · rfl
  · split <;> rfl

/-! Small integers. -/

/-- An integer of at most 53 bits is the magnitude of a pattern, scaled so that its leading bit is bit 52. -/
theorem exists_pattern_of_le {n : Nat} (h : n ≤ 2 ^ 53) : ∃ c < infBits, magnitude c = n * one1074 := by
  rcases Nat.eq_zero_or_pos n with rfl | hn
  · exact ⟨0, by decide, by simp⟩
  have hlo : 2 ^ Nat.log2 n ≤ n := Nat.log2_self_le hn.ne'
  have hhi : n < 2 ^ (Nat.log2 n + 1) := Nat.lt_log2_self
  have hlog : Nat.log2 n ≤ 53 := (Nat.pow_le_pow_iff_right (by norm_num)).mp (hlo.trans h)
  generalize Nat.log2 n = l at *
  set z := 52 - l with hz
  have hq : n * 2 ^ z ≤ 2 ^ 53 := by
    rcases hlog.lt_or_eq with hl | rfl
    · calc n * 2 ^ z ≤ 2 ^ (l + 1) * 2 ^ z := Nat.mul_le_mul_right _ hhi.le
        _ = 2 ^ 53 := by rw [← pow_add]; congr 1; omega
    · simpa [hz] using h
  have hlead : 2 ^ 52 ≤ n * 2 ^ z :=
    calc 2 ^ 52 ≤ 2 ^ (l + z) := Nat.pow_le_pow_right (by norm_num) (by omega)
      _ = 2 ^ l * 2 ^ z := pow_add 2 l z
      _ ≤ n * 2 ^ z := Nat.mul_le_mul_right _ hlo
  refine ⟨(1074 - z) * 2 ^ 52 + n * 2 ^ z, ?_, ?_⟩
  · unfold infBits
    omega
  · have hscale : one1074 = 2 ^ (z + (1074 - z)) := by
      unfold one1074
      congr 1
      omega
    rw [magnitude_pattern hq (.inr hlead), hscale, pow_add, mul_assoc]

/-! NaNs. -/

section
variable {a b : Binary64}

/-- With a NaN operand one of the two places on the scale of `key` is missing. -/
theorem not_exists_keys_of_nan (h : unpack a = .nan ∨ unpack b = .nan) :
    ¬∃ x y, (unpack a).key = some x ∧ (unpack b).key = some y := by
  rintro ⟨x, y, ha, hb⟩
  rcases h with h | h
  · simp [h, Value.key] at ha
  · simp [h, Value.key] at hb

theorem le_eq_false_of_nan (h : unpack a = .nan ∨ unpack b = .nan) : le a b = false := by
  refine Bool.eq_false_iff.mpr fun hle => not_exists_keys_of_nan h ?_
  obtain ⟨x, y, ha, hb, -⟩ := le_iff.mp hle
  exact ⟨x, y, ha, hb⟩

theorem lt_eq_false_of_nan (h : unpack a = .nan ∨ unpack b = .nan) : lt a b = false := by
  refine Bool.eq_false_iff.mpr fun hlt => not_exists_keys_of_nan h ?_
  obtain ⟨x, y, ha, hb, -⟩ := lt_iff.mp hlt
  exact ⟨x, y, ha, hb⟩

end

theorem addValue_eq_none_of_nan {u v : Value} (h : u = .nan ∨ v = .nan) : addValue u v = none := by
  rcases h with rfl | rfl
  · rfl
  · cases u <;> rfl

theorem mulValue_eq_none_of_nan {u v : Value} (h : u = .nan ∨ v = .nan) : mulValue u v = none := by
  rcases h with rfl | rfl
  · rfl
  · cases u <;> rfl

theorem divValue_eq_none_of_nan {u v : Value} (h : u = .nan ∨ v = .nan) : divValue u v = none := by
  rcases h with rfl | rfl
  · rfl
  · cases u <;> rfl

end Sys2Proof.Fp
end

section
/-!
PROOFS. The four binary64 operations round to nearest, ties to even (00_scope.md R14). The distance argument is made once,
for `roundRatio`, and carried over to signed patterns; each operation then only has to show that it rounds its exact result.
-/

namespace Sys2Proof.Fp

open Sys2Proof.Spec

/-! Rounding a ratio: where it overflows, and what it is nearest to. -/

theorem one1074_pos : 0 < one1074 := by
  unfold one1074
  positivity

theorem overflowUnits_pos : 0 < overflowUnits := by
  unfold overflowUnits
  exact mul_pos (by norm_num) (pow_pos (by norm_num) _)

/-- The overflow threshold lies midway between the greatest finite magnitude and the infinity's. -/
theorem two_mul_overflowUnits :
    2 * overflowUnits = ((magnitude (infBits - 1) + magnitude infBits : Nat) : Int) := by
  have greatest : magnitude (infBits - 1) = (2 ^ 53 - 1) * 2 ^ 2045 := by
    have h := magnitude_pattern (k := 2045) (q := 2 ^ 53 - 1) (by norm_num) (.inr (by norm_num))
    have e : infBits - 1 = 2045 * 2 ^ 52 + (2 ^ 53 - 1) := by unfold infBits; norm_num
    rw [e, h]
  have infinity : magnitude infBits = 2 ^ 53 * 2 ^ 2045 := by
    have h := magnitude_pattern (k := 2045) (q := 2 ^ 53) (by norm_num) (.inr (by norm_num))
    have e : infBits = 2045 * 2 ^ 52 + 2 ^ 53 := by unfold infBits; norm_num
    rw [e, h]
  rw [greatest, infinity, ← Nat.add_mul]
  unfold overflowUnits
  rw [pow_succ 2 2044, Nat.cast_mul, Nat.cast_mul, Nat.cast_pow, Nat.cast_ofNat]
  generalize (2 : Int) ^ 2044 = unit
  push_cast
  ring

theorem scaled_magnitude_lt {den p q : Nat} (hden : 0 < den) (h : p < q) : den * magnitude p < den * magnitude q :=
  Nat.mul_lt_mul_of_pos_left (magnitude_strictMono h) hden

theorem scaled_magnitude_le {p q : Nat} (den : Nat) (h : p ≤ q) : den * magnitude p ≤ den * magnitude q :=
  Nat.mul_le_mul_left den (magnitude_strictMono.monotone h)

/-- A ratio rounds to a finite pattern exactly below the midpoint of the greatest finite magnitude and the infinity's:
at the midpoint the tie goes to the infinity, whose pattern is even. -/
theorem roundRatio_lt_infBits_iff {num den : Nat} (hden : 0 < den) :
    roundRatio num den < infBits ↔ 2 * num < den * (magnitude (infBits - 1) + magnitude infBits) := by
  obtain ⟨P, hP, hPs, hround⟩ := roundRatio_cases num den hden
  obtain ⟨top, hinf, hodd⟩ : ∃ top, infBits = top + 1 ∧ top % 2 = 1 := ⟨infBits - 1, by decide, by decide⟩
  have hgap : den * magnitude top < den * magnitude (top + 1) := scaled_magnitude_lt hden (Nat.lt_succ_self top)
  rw [hinf, Nat.add_sub_cancel]
  rw [hinf] at hround
  rw [Nat.mul_add] at hround ⊢
  rcases lt_trichotomy P top with hlt | rfl | hgt
  · have hle : den * magnitude (P + 1) ≤ den * magnitude top := scaled_magnitude_le den hlt
    exact iff_of_true (by omega) (by omega)
  · omega
  · have hle : den * magnitude (top + 1) ≤ den * magnitude P := scaled_magnitude_le den hgt
    exact iff_of_false (by omega) (by omega)

/-- The midpoint of `roundRatio_lt_infBits_iff` is the overflow threshold. -/
theorem roundRatio_lt_infBits_iff_overflow {num den : Nat} (hden : 0 < den) :
    roundRatio num den < infBits ↔ (num : Int) < overflowUnits * den := by
  rw [roundRatio_lt_infBits_iff hden, ← Nat.cast_lt (α := Int), Nat.cast_mul den, ← two_mul_overflowUnits]
  push_cast
  constructor <;> intro h <;> linarith

/-- No pattern's magnitude is nearer to the ratio than that of a finite rounded pattern, and another one is as near
only where the rounded pattern is even. -/
theorem roundRatio_nearest {num den : Nat} (hden : 0 < den) (hfin : roundRatio num den < infBits) (c : Nat) :
    |(magnitude (roundRatio num den) * den - num : Int)| ≤ |(magnitude c * den - num : Int)| ∧
      (|(magnitude (roundRatio num den) * den - num : Int)| = |(magnitude c * den - num : Int)| →
        c ≠ roundRatio num den → roundRatio num den % 2 = 0) := by
  obtain ⟨P, hP, hPs, hround⟩ := roundRatio_cases num den hden
  rw [Nat.mul_add] at hround
  simp only [← Nat.cast_mul, Nat.mul_comm _ den, Int.abs_eq_natAbs]
  rcases hround with ⟨hR, hnear⟩ | ⟨hR, hnear⟩
  · have hR : roundRatio num den = P := by omega
    rw [hR]
    rcases lt_trichotomy c P with hc | rfl | hc
    · have := scaled_magnitude_lt hden hc
      omega
    · simp
    · have : den * magnitude (P + 1) ≤ den * magnitude c := scaled_magnitude_le den hc
      omega
  · have hR : roundRatio num den = P + 1 := by omega
    rw [hR]
    rcases lt_trichotomy c (P + 1) with hc | rfl | hc
    · have := scaled_magnitude_le den (Nat.le_of_lt_succ hc)
      omega
    · simp
    · have := scaled_magnitude_lt hden hc
      omega

/-! Signed ratios. -/

theorem abs_units (neg : Bool) (m : Nat) : |units neg m| = m := by
  cases neg <;> simp [units]

theorem units_decide_natAbs (v : Int) : units (decide (v < 0)) v.natAbs = v := by
  rcases lt_or_ge v 0 with h | h
  · simp [units, h, abs_of_neg]
  · simp [units, not_lt.mpr h, abs_of_nonneg h]

theorem units_mul_units (n m : Bool) (x y : Nat) : units n x * units m y = units (n ^^ m) (x * y) := by
  cases n <;> cases m <;> simp [units]

theorem units_mul_sign_units (n m : Bool) (x : Nat) {y : Nat} (hy : y ≠ 0) :
    units n x * (units m y).sign = units (n ^^ m) x := by
  have : Int.sign (y : Int) = 1 := Int.sign_eq_one_of_pos (by omega)
  cases n <;> cases m <;> simp [units, this]

/-- Numbers on the same side of 0 lie as far apart as their magnitudes. -/
theorem abs_units_sub_same (neg : Bool) (a b s : Nat) :
    |units neg a * s - units neg b| = |(a * s - b : Int)| := by
  cases neg
  · simp [units]
  · simp only [units, if_true]
    rw [← abs_neg]
    ring_nf

/-- Numbers on opposite sides of 0 lie as far apart as their magnitudes together. -/
theorem abs_units_sub_opposite (neg : Bool) (a b s : Nat) :
    |units (!neg) a * s - units neg b| = (a * s + b : Int) := by
  have h : (0 : Int) ≤ a * s := by positivity
  cases neg <;> simp only [units, Bool.not_true, Bool.not_false, if_true, Bool.false_eq_true, if_false]
  · rw [show -(a : Int) * s - b = -(a * s + b) by ring, abs_neg, abs_of_nonneg (by omega)]
  · rw [show (a : Int) * s - -b = a * s + b by ring, abs_of_nonneg (by omega)]

/-- The sign bit does not change whether a pattern is even. -/
theorem toNat_signed_mod_two {bits : Nat} (neg : Bool) (h : bits ≤ infBits) :
    (signed neg bits).toNat % 2 = bits % 2 := by
  rw [toNat_signed neg h]
  cases neg <;> simp; omega

/-- A finite rounded ratio with a sign is the nearest value: values of the same sign are compared by magnitude, and one
of the other sign is never nearer than 0. -/
theorem nearestEven_signed {num den : Nat} (neg : Bool) (hden : 0 < den) (hfin : roundRatio num den < infBits) :
    NearestEven (signed neg (roundRatio num den)) (units neg num) den := by
  refine ⟨neg, _, unpack_signed neg hfin, fun c k z hc => ?_⟩
  obtain ⟨c, -, rfl, -⟩ := finite_magnitude hc
  rw [abs_units_sub_same, toNat_signed_mod_two neg hfin.le]
  by_cases hk : k = neg
  · obtain ⟨hle, heven⟩ := roundRatio_nearest hden hfin c
    rw [hk, abs_units_sub_same]
    exact ⟨hle, fun he hne => heven he fun h => hne (by rw [h])⟩
  · obtain rfl : k = !neg := Bool.eq_not.mpr hk
    obtain ⟨hle, heven⟩ := roundRatio_nearest hden hfin 0
    have hz : (0 : Int) ≤ magnitude c * den := by positivity
    rw [abs_units_sub_opposite]
    simp only [magnitude_zero, Nat.cast_zero, zero_mul, zero_sub, abs_neg, Nat.abs_cast] at hle heven
    refine ⟨by omega, fun he _ => ?_⟩
    have := heven (by omega)
    omega

/-- A rounded ratio with a sign rounds the signed ratio to nearest, ties to even. -/
theorem roundsToNearest_signed {num den : Nat} (neg : Bool) (hden : 0 < den) :
    RoundsToNearest (signed neg (roundRatio num den)) (units neg num) den where
  below h := nearestEven_signed neg hden ((roundRatio_lt_infBits_iff_overflow hden).mpr (by rwa [abs_units] at h))
  above h := by
    rw [abs_units] at h
    have hinf : roundRatio num den = infBits :=
      (roundRatio_le_infBits num den).eq_of_not_lt (mt (roundRatio_lt_infBits_iff_overflow hden).mp (not_lt.mpr h))
    have hpos : (0 : Int) < num := (mul_pos overflowUnits_pos (by exact_mod_cast hden)).trans_le h
    have hsign : decide (units neg num < 0) = neg := by cases neg <;> simp [units]; omega
    rw [hinf, unpack_signed_inf, hsign]

/-! The four operations on finite values. -/

/-- A finite sum of values is the exact sum, rounded. -/
theorem roundsToNearest_addValue (n m : Bool) (x y : Nat) (nan : Binary64) :
    RoundsToNearest ((addValue (.fin n x) (.fin m y)).getD nan) (units n x + units m y) 1 := by
  simp only [addValue]
  split
  case isTrue h =>
    rw [h]
    simpa [units] using roundsToNearest_signed (num := 0) (n && m) one_pos
  case isFalse =>
    rw [Option.getD_some, ofUnits]
    simpa only [units_decide_natAbs, Nat.cast_one] using
      roundsToNearest_signed (num := (units n x + units m y).natAbs) (decide (units n x + units m y < 0)) one_pos

section
variable {a b : Binary64} {n m : Bool} {x y : Nat}

theorem roundsToNearest_add (ha : unpack a = .fin n x) (hb : unpack b = .fin m y) :
    RoundsToNearest (add a b) (units n x + units m y) 1 := by
  unfold add
  rw [ha, hb]
  exact roundsToNearest_addValue n m x y _

theorem roundsToNearest_sub (ha : unpack a = .fin n x) (hb : unpack b = .fin m y) :
    RoundsToNearest (sub a b) (units n x - units m y) 1 := by
  unfold sub
  rw [ha, hb, sub_eq_add_neg, ← units_negate]
  exact roundsToNearest_addValue n (!m) x y _

theorem roundsToNearest_mul (ha : unpack a = .fin n x) (hb : unpack b = .fin m y) :
    RoundsToNearest (mul a b) (units n x * units m y) one1074 := by
  unfold mul
  rw [ha, hb, units_mul_units]
  exact roundsToNearest_signed (n ^^ m) one1074_pos

theorem roundsToNearest_div (ha : unpack a = .fin n x) (hb : unpack b = .fin m y) (hy : y ≠ 0) :
    RoundsToNearest (div a b) (units n x * one1074 * (units m y).sign) y := by
  have exact_quotient : units n x * one1074 * (units m y).sign = units (n ^^ m) (x * one1074) := by
    rw [mul_right_comm, units_mul_sign_units n m x hy]
    cases n ^^ m <;> simp [units]
  unfold div
  rw [ha, hb, exact_quotient]
  simp only [divValue, if_neg hy, Option.getD_some]
  exact roundsToNearest_signed (n ^^ m) (Nat.pos_of_ne_zero hy)

end

end Sys2Proof.Fp
end

section
/-!
PROOFS. The statements about binary64 (00_scope.md R14), each from the facts above.
-/

namespace Sys2Proof.Fp

/-- Settles O49: each operation rounds its exact result once, and rounding is to nearest, ties to even
(`roundsToNearest_signed`). -/
theorem arithmeticRoundsToNearestEven : Obligations.ArithmeticRoundsToNearestEven :=
  fun _ _ _ _ _ _ ha hb =>
    ⟨roundsToNearest_add ha hb, roundsToNearest_sub ha hb, roundsToNearest_mul ha hb, roundsToNearest_div ha hb⟩

/-- Settles O54: `magnitude_pattern` gives the significand and its scale, with the exponent field one above the scale for
a normal number. -/
theorem patternsHaveTheirValues : Obligations.PatternsHaveTheirValues := by
  intro n e f
  have he := e.isLt
  have hf := f.isLt
  rw [unpack_fields]
  by_cases hmax : e.toNat = 2047
  · have hzero : e.toNat * 2 ^ 52 + f.toNat = infBits ↔ f = 0 := by
      rw [← BitVec.toNat_inj, show (0 : BitVec 52).toNat = 0 from rfl]
      unfold infBits
      omega
    have hinf : ¬e.toNat * 2 ^ 52 + f.toNat < infBits := by unfold infBits; omega
    simp only [if_neg hinf, if_pos hmax, hzero]
  · have hfin : e.toNat * 2 ^ 52 + f.toNat < infBits := by unfold infBits; omega
    rw [if_pos hfin, if_neg hmax]
    by_cases hsub : e.toNat = 0
    · rw [if_pos hsub, hsub, magnitude_pattern (by omega) (.inl rfl), pow_zero, mul_one]
    · have hsplit : e.toNat * 2 ^ 52 + f.toNat = (e.toNat - 1) * 2 ^ 52 + (2 ^ 52 + f.toNat) := by omega
      rw [if_neg hsub, hsplit, magnitude_pattern (by omega) (.inr (by omega))]

/-- Settles O55: the comparisons are those of `key`, on which the infinities are the two ends. -/
theorem comparisonsFollowTheValues : Obligations.ComparisonsFollowTheValues := by
  refine ⟨fun a b n m x y ha hb => ?_, fun a b n ha hb => ?_, fun a => ⟨msb_fabs a, setWidth_fabs a, unpack_fabs a⟩⟩
  · have ka := key_of_fin ha
    have kb := key_of_fin hb
    exact ⟨le_iff_of_key ka kb, le_iff_of_key kb ka, lt_iff_of_key ka kb⟩
  · obtain ⟨hle, hge, hlt, hgt⟩ := compare_inf ha hb
    exact ⟨hle, hge, hlt, hgt, Iff.rfl, Iff.rfl⟩

/-- Settles O50: the exact value is representable, and rounding keeps it. -/
theorem smallIntegersConvertExactly : Obligations.SmallIntegersConvertExactly := by
  intro n hn
  obtain ⟨c, hc, hmag⟩ := exists_pattern_of_le hn
  have hround : roundRatio (n.natAbs * one1074) 1 = c := roundRatio_exact one_pos hc.le (by rw [one_mul, hmag])
  unfold ofInt
  rw [hround, unpack_signed _ hc, hmag]

/-- Settles O51: a NaN has no place in the order, and the operations answer with a quiet NaN. -/
theorem nansCompareFalseAndPropagate : Obligations.NansCompareFalseAndPropagate := by
  intro a b h
  have hneg : unpack a = .nan ∨ (unpack b).negate = .nan := h.imp_right fun hb => by rw [hb, Value.negate]
  refine ⟨le_eq_false_of_nan h, le_eq_false_of_nan h.symm, lt_eq_false_of_nan h, ?_, ?_, ?_, ?_⟩
  · rw [add, addValue_eq_none_of_nan h, Option.getD_none, unpack_quietNan]
  · rw [sub, addValue_eq_none_of_nan hneg, Option.getD_none, unpack_quietNan]
  · rw [mul, mulValue_eq_none_of_nan h, Option.getD_none, unpack_quietNan]
  · rw [div, divValue_eq_none_of_nan h, Option.getD_none, unpack_quietNan]

end Sys2Proof.Fp
end

section
/-!
PROOFS. The bit period stays positive (10_state.md R34, 42_bit_clock_sync.md R150): rounding keeps the sign of an exact
result, damping shrinks an error, and an early transition by a whole period lies in the half-bit window.
-/

namespace Sys2Proof.Fp

/-! The constants. -/

theorem unpack_zero : unpack zero = .fin false 0 := by decide +kernel

theorem unpack_one : unpack one = .fin false one1074 := by decide +kernel

theorem unpack_two : unpack two = .fin false (2 * one1074) := by decide +kernel

theorem magnitude_one : magnitude 1 = 1 := by decide

/-! Signs and finiteness. -/

theorem isFinite_iff {a : Binary64} : isFinite a = true ↔ ∃ n x, unpack a = .fin n x := by
  unfold isFinite
  cases unpack a <;> simp

/-- A value is positive where its place on the scale of `key` is. -/
theorem lt_zero_iff_key {a : Binary64} : lt zero a = true ↔ ∃ v, (unpack a).key = some v ∧ 0 < v := by
  simp [lt_iff, unpack_zero, Value.key, units]

theorem unpack_of_lt_zero {a : Binary64} (h : lt zero a = true) :
    unpack a = .inf false ∨ ∃ x, 0 < x ∧ unpack a = .fin false x := by
  obtain ⟨v, hv, hpos⟩ := lt_zero_iff_key.mp h
  cases ha : unpack a with
  | nan => simp [ha, Value.key] at hv
  | inf n =>
    cases n
    · exact .inl rfl
    · simp only [ha, Value.key, units, if_true, Option.some.injEq] at hv
      omega
  | fin n x =>
    simp only [ha, Value.key, Option.some.injEq] at hv
    cases n <;> simp only [units, Bool.false_eq_true, if_false, if_true] at hv
    · exact .inr ⟨x, by omega, rfl⟩
    · omega

/-- A value between two finite ones is finite. -/
theorem exists_fin_of_key_between {a l u : Binary64} {n m : Bool} {v : Int} {x y : Nat} (ha : (unpack a).key = some v)
    (hl : unpack l = .fin n x) (hu : unpack u = .fin m y) (hlv : units n x ≤ v) (hvu : v ≤ units m y) :
    ∃ k z, unpack a = .fin k z ∧ units k z = v := by
  have hlo := (units_between_infinities hl).1
  have hhi := (units_between_infinities hu).2
  cases h : unpack a with
  | nan => simp [h, Value.key] at ha
  | inf k =>
    simp only [h, Value.key, Option.some.injEq] at ha
    cases k <;> simp only [units, Bool.false_eq_true, if_false, if_true] at ha <;> omega
  | fin k z => exact ⟨k, z, rfl, by simpa [h, Value.key] using ha⟩

/-- What lies within a finite window is finite. -/
theorem exists_fin_of_fabs_le {a b : Binary64} (hb : isFinite b = true) (h : le (fabs a) b = true) :
    ∃ n x, unpack a = .fin n x := by
  obtain ⟨m, y, hy⟩ := isFinite_iff.mp hb
  obtain ⟨v, w, hv, hw, hvw⟩ := le_iff.mp h
  rw [key_of_fin hy, Option.some.injEq] at hw
  rw [key_fabs, Option.map_eq_some_iff] at hv
  obtain ⟨u, hu, rfl⟩ := hv
  obtain ⟨hlo, hhi⟩ := abs_le.mp (hvw.trans hw.ge)
  cases ha : unpack a with
  | nan => simp [ha, Value.key] at hu
  | inf k =>
    have hfin := (units_between_infinities hy).2
    simp only [ha, Value.key, Option.some.injEq] at hu
    cases k <;> simp only [units, Bool.false_eq_true, if_false, if_true] at hu <;> omega
  | fin n x => exact ⟨n, x, rfl⟩

/-! Sums. -/

/-- A positive number of units stays positive when it is rounded, since one unit is representable. -/
theorem roundedUnits_pos {v : Int} (h : 0 < v) : 0 < roundedUnits v := by
  have one_exact : roundedUnits 1 = 1 := by
    simpa [units, magnitude_one] using roundedUnits_exact (c := 1) false (by decide)
  have hmono := roundedUnits_mono (show 1 ≤ v from h)
  omega

/-- A finite value is its own rounding. -/
theorem roundedUnits_of_fin {a : Binary64} {n : Bool} {x : Nat} (h : unpack a = .fin n x) :
    roundedUnits (units n x) = units n x := by
  obtain ⟨c, hc, rfl, -⟩ := finite_magnitude h
  exact roundedUnits_exact n hc.le

section
variable {a b : Binary64} {n m : Bool} {x y : Nat}

theorem add_pos_of_fin (ha : unpack a = .fin n x) (hb : unpack b = .fin m y) (h : 0 < units n x + units m y) :
    lt zero (add a b) = true :=
  lt_zero_iff_key.mpr ⟨_, key_add ha hb, roundedUnits_pos h⟩

theorem add_pos_of_inf (ha : unpack a = .inf false) (hb : unpack b = .fin m y) : lt zero (add a b) = true := by
  refine lt_zero_iff_key.mpr ⟨infUnits, ?_, by exact_mod_cast infUnits_pos⟩
  unfold add
  rw [ha, hb, addValue, Option.getD_some, unpack_signed_inf]
  rfl

/-- A negative value and a smaller positive one add up to a value between the negative one and 0. -/
theorem fabs_add_le_of_opposite (ha : unpack a = .fin true x) (hb : unpack b = .fin false y) (hyx : y ≤ x)
    {w : Binary64} (h : le (fabs a) w = true) : le (fabs (add a b)) w = true := by
  obtain ⟨u, v, hu, hv, huv⟩ := le_iff.mp h
  rw [key_fabs, key_of_fin ha, Option.map_some, Option.some.injEq, abs_units] at hu
  refine le_iff.mpr ⟨_, v, by rw [key_fabs, key_add ha hb, Option.map_some], hv, ?_⟩
  have hlo := roundedUnits_mono (show units true x ≤ units true x + units false y by simp [units])
  have hhi := roundedUnits_mono (show units true x + units false y ≤ 0 by simp [units]; omega)
  rw [roundedUnits_of_fin ha] at hlo
  rw [roundedUnits_zero] at hhi
  rw [abs_of_nonpos hhi]
  simp only [units, if_true] at hlo hu ⊢
  omega

/-! Products and quotients. -/

/-- Damping by a factor from 0 to 1 does not enlarge a finite value, and keeps it from changing its sign. -/
theorem unpack_mul_damping (ha : unpack a = .fin n x) (h0 : le zero b = true) (h1 : le b one = true) :
    ∃ m y, unpack (mul a b) = .fin m y ∧ y ≤ x ∧ (n = false → 0 ≤ units m y) := by
  obtain ⟨z, v, hz, hv, hzv⟩ := le_iff.mp h0
  obtain ⟨v', o, hv', ho, hvo⟩ := le_iff.mp h1
  rw [key_of_fin unpack_zero, Option.some.injEq] at hz
  rw [key_of_fin unpack_one, Option.some.injEq] at ho
  obtain rfl : v = v' := Option.some.inj (hv.symm.trans hv')
  obtain ⟨k, f, hb, rfl⟩ := exists_fin_of_key_between hv unpack_zero unpack_one (hz.trans_le hzv) (hvo.trans ho.ge)
  obtain ⟨c, hc, rfl, -⟩ := finite_magnitude ha
  have hfactor : f ≤ one1074 ∧ (k = true → f = 0) := by
    cases k <;> simp [units] at hz ho hzv hvo ⊢ <;> omega
  have hround : roundRatio (magnitude c * f) one1074 ≤ c :=
    roundRatio_le one1074_pos (by rw [Nat.mul_comm]; exact Nat.mul_le_mul_right _ hfactor.1)
  refine ⟨n ^^ k, magnitude (roundRatio (magnitude c * f) one1074), ?_, magnitude_strictMono.monotone hround, ?_⟩
  · unfold mul
    rw [ha, hb, mulValue, Option.getD_some, unpack_signed _ (hround.trans_lt hc)]
  · rintro rfl
    cases k
    · simp [units]
    · simp [units, hfactor.2 rfl]

/-- Halving does not enlarge a positive value. -/
theorem unpack_div_two (ha : unpack a = .fin false x) : ∃ y, unpack (div a two) = .fin false y ∧ y ≤ x := by
  obtain ⟨c, hc, rfl, -⟩ := finite_magnitude ha
  have hpos := one1074_pos
  have hround : roundRatio (magnitude c * one1074) (2 * one1074) ≤ c := roundRatio_le (by omega) (by nlinarith)
  refine ⟨_, ?_, magnitude_strictMono.monotone hround⟩
  unfold div
  rw [ha, unpack_two, divValue, if_neg (by omega), Option.getD_some, Bool.xor_self,
    unpack_signed _ (hround.trans_lt hc)]

end

/-- A positive integer with a finite value has a value of at least 1. -/
theorem unpack_ofInt_of_pos {k : Nat} (hk : 1 ≤ k) (h : isFinite (ofInt k) = true) :
    ∃ x, unpack (ofInt k) = .fin false x ∧ one1074 ≤ x := by
  obtain ⟨c, hc, hmag, -⟩ := finite_magnitude unpack_one
  have hofInt : ofInt k = signed false (roundRatio (k * one1074) 1) := by
    unfold ofInt
    rw [decide_eq_false (by omega), Int.natAbs_natCast]
  have hlo : c ≤ roundRatio (k * one1074) 1 :=
    le_roundRatio one_pos hc.le (by rw [one_mul, ← hmag]; exact Nat.le_mul_of_pos_left _ hk)
  rw [hofInt] at h ⊢
  have hfin : roundRatio (k * one1074) 1 < infBits := by
    refine (roundRatio_le_infBits _ _).lt_of_ne fun hinf => ?_
    rw [hinf, isFinite, unpack_signed_inf] at h
    exact Bool.false_ne_true h
  exact ⟨_, unpack_signed false hfin, hmag.trans_le (magnitude_strictMono.monotone hlo)⟩

theorem pow_le_pow_mul_pow {i j k : Nat} (h : i ≤ j + k) : 2 ^ i ≤ 2 ^ j * 2 ^ k :=
  (Nat.pow_le_pow_right two_pos h).trans_eq (pow_add 2 j k)

/-- A quotient of two finite values of at least 1 does not underflow. -/
theorem div_pos_of_one_le {a b : Binary64} {x y : Nat} (ha : unpack a = .fin false x) (hb : unpack b = .fin false y)
    (hx : one1074 ≤ x) (hy : one1074 ≤ y) : lt zero (div a b) = true := by
  have hpos : 0 < y := one1074_pos.trans_le hy
  have hrange : y ≤ x * one1074 :=
    calc y ≤ infUnits := by simpa [units] using (units_between_infinities hb).2.le
      _ ≤ one1074 * one1074 := by
        unfold infUnits one1074
        exact pow_le_pow_mul_pow (by decide)
      _ ≤ x * one1074 := Nat.mul_le_mul_right _ hx
  have hround : 1 ≤ roundRatio (x * one1074) y :=
    le_roundRatio hpos (by decide) (by rw [magnitude_one, mul_one]; exact hrange)
  refine lt_zero_iff_key.mpr ⟨units false (magnitude (roundRatio (x * one1074) y)), ?_, ?_⟩
  · unfold div
    rw [ha, hb, divValue, if_neg hpos.ne', Option.getD_some, Bool.xor_self, key_signed false (roundRatio_le_infBits _ _)]
  · have := magnitude_strictMono.monotone hround
    rw [magnitude_one] at this
    simp only [units, Bool.false_eq_true, if_false]
    omega

/-- The quotient of two infinities is a NaN. -/
theorem unpack_div_of_inf {a b : Binary64} {n m : Bool} (ha : unpack a = .inf n) (hb : unpack b = .inf m) :
    unpack (div a b) = .nan := by
  unfold div
  rw [ha, hb, divValue, Option.getD_none, unpack_quietNan]

end Sys2Proof.Fp

namespace Sys2Proof.Machine

/-- The constraints on the parameters of a legal build, one by one (00_scope.md R5 to R8). -/
theorem legal_facts (p : Build) :
    1 ≤ p.params.fs ∧ 1 ≤ p.params.dataRate ∧ Fp.isFinite p.params.eps = true ∧ Fp.le Fp.zero p.params.damp = true ∧
      Fp.le p.params.damp Fp.one = true := by
  have h := p.legal
  simp only [Params.legal, Bool.and_eq_true, decide_eq_true_eq] at h
  obtain ⟨⟨⟨⟨⟨hfs, hrate⟩, heps⟩, -⟩, hdamp⟩, hdampOne⟩ := h
  exact ⟨hfs, hrate, heps, hdamp, hdampOne⟩

/-- The nominal period is positive where both rates have finite values (R150; notes, entry 12). -/
theorem nominalPeriod_pos (p : Build) (hfs : Fp.isFinite (Fp.ofInt p.params.fs) = true)
    (hrate : Fp.isFinite (Fp.ofInt p.params.dataRate) = true) : Fp.lt Fp.zero (nominalPeriod p) = true := by
  obtain ⟨hfsPos, hratePos, -⟩ := legal_facts p
  obtain ⟨x, hx, hxOne⟩ := Fp.unpack_ofInt_of_pos hfsPos hfs
  obtain ⟨y, hy, hyOne⟩ := Fp.unpack_ofInt_of_pos hratePos hrate
  exact Fp.div_pos_of_one_le hx hy hxOne hyOne

/-- A transition inside the centre window that comes early by the whole period or more lies in the half-bit window. -/
theorem midWindow_of_period_le {p : Build} {d e : Binary64} {x y : Nat} (hd : Fp.unpack d = .fin false x)
    (he : Fp.unpack e = .fin true y) (hxy : x ≤ y) (hc : centreWindow p e = true) :
    midWindow p (Fp.div d Fp.two) e = true := by
  obtain ⟨z, hz, hzx⟩ := Fp.unpack_div_two hd
  exact Fp.fabs_add_le_of_opposite he hz (hzx.trans hxy) hc

/-- BIT leaves a positive period positive (R141, R150): a late transition lengthens it, and an early one, which is no
half-bit, shortens it by less than itself. -/
theorem nudgedPeriod_pos (p : Build) {d e : Binary64} (hd : Fp.lt Fp.zero d = true)
    (hm : midWindow p (Fp.div d Fp.two) e = false) (hc : centreWindow p e = true) :
    Fp.lt Fp.zero (nudgedPeriod p d e) = true := by
  obtain ⟨-, -, heps, hdamp, hdampOne⟩ := legal_facts p
  obtain ⟨n, y, he⟩ := Fp.exists_fin_of_fabs_le heps hc
  obtain ⟨m, z, hz, hzy, hsign⟩ := Fp.unpack_mul_damping he hdamp hdampOne
  unfold nudgedPeriod
  split
  case isFalse => exact hd
  case isTrue =>
    rcases Fp.unpack_of_lt_zero hd with hinf | ⟨x, hx, hfin⟩
    · exact Fp.add_pos_of_inf hinf hz
    · refine Fp.add_pos_of_fin hfin hz ?_
      have hshift : -(z : Int) ≤ Fp.units m z := by cases m <;> simp [Fp.units]
      have hwhole : Fp.units false x = x := rfl
      cases n with
      | false =>
        have := hsign rfl
        omega
      | true =>
        have hlt : y < x := by
          by_contra hle
          rw [midWindow_of_period_le hfin he (not_lt.mp hle) hc] at hm
          exact Bool.false_ne_true hm.symm
        omega

end Sys2Proof.Machine
end

section
/-!
PROOFS. What one command can do, said once: the six ways a decoded bit passes the framer, the eight ways a sample passes
the synchronizer, and the fields that each of them writes (10_state.md R23 to R33).
-/

namespace Sys2Proof.Machine

/-! A frame's completion. -/

/-- Completing a frame frees the buffer, whether the frame is accepted or not (43_framer.md R167). -/
theorem complete_st (w : Work) : (complete w).st = (freeFrame w).st := by
  rcases complete_cases w with ⟨-, h⟩ | ⟨-, h⟩ <;> rw [h] <;> rfl

theorem complete_fev (w : Work) : (complete w).resp.fev = .doneOk ∨ (complete w).resp.fev = .doneFail := by
  rcases complete_cases w with ⟨-, h⟩ | ⟨-, h⟩ <;> rw [h]
  · exact .inl rfl
  · exact .inr rfl

@[simp] theorem complete_op (w : Work) : (complete w).resp.op = w.resp.op := by
  rcases complete_cases w with ⟨-, h⟩ | ⟨-, h⟩ <;> rw [h] <;> rfl

@[simp] theorem complete_idx (w : Work) : (complete w).resp.idx = w.resp.idx := by
  rcases complete_cases w with ⟨-, h⟩ | ⟨-, h⟩ <;> rw [h] <;> rfl

/-! The ways of a decoded bit and of a sample. -/

/-- The work that a decoded bit leaves, by the framer's action and its condition (R160 to R167). -/
inductive FramerAction (b : Bool) (off : Word64) (w : Work) : Work → Prop where
  /-- SHIFT. -/
  | shift (hf : w.st.fphase = .awaitTag) : FramerAction b off w (shiftOnly (shifted b w))
  /-- TAG_REJECT. -/
  | reject (hf : w.st.fphase = .awaitTag) : FramerAction b off w (tagReject (shifted b w))
  /-- TAG_OPEN. -/
  | opened (hf : w.st.fphase = .awaitTag) (hlen : 8 ≤ (lengthField (shifted b w).st.acc).toNat) :
    FramerAction b off w (tagOpen off (shifted b w))
  /-- TAIL, inside a byte. -/
  | count (hf : w.st.fphase = .consumeTail) (hbyte : (w.st.rem - 1).toNat % 8 ≠ 0) :
    FramerAction b off w (raiseFramer .tail (counted (shifted b w)))
  /-- TAIL, at the end of a byte. -/
  | append (hf : w.st.fphase = .consumeTail) (hbyte : (w.st.rem - 1).toNat % 8 = 0) (hmore : w.st.rem - 1 ≠ 0) :
    FramerAction b off w (raiseFramer .tail (appended (shifted b w)))
  /-- DONE_OK or DONE_FAIL. -/
  | last (hf : w.st.fphase = .consumeTail) (hone : w.st.rem = 1) :
    FramerAction b off w (complete (appended (shifted b w)))

theorem framerBit_action (p : Build) (b : Bool) (off : Word64) (w : Work) :
    FramerAction b off w (framerBit p b off w) := by
  cases hf : w.st.fphase with
  | awaitTag =>
    rw [framerBit_awaitTag p b off w hf]
    rcases awaitTag_cases p off (shifted b w) with ⟨-, h⟩ | ⟨-, -, h⟩ | ⟨-, hlen, h⟩ <;> rw [h]
    · exact .shift hf
    · exact .reject hf
    · exact .opened hf hlen
  | consumeTail =>
    rw [framerBit_consumeTail p b off w hf]
    have hrem : (shifted b w).st.rem = w.st.rem := rfl
    by_cases hbyte : (w.st.rem - 1).toNat % 8 = 0
    · by_cases hlast : w.st.rem - 1 = 0
      · have hone : w.st.rem = 1 := sub_eq_zero.mp hlast
        rw [consumeTail_last _ (hrem.trans hone)]
        exact .last hf hone
      · rw [consumeTail_append _ hrem hbyte hlast]
        exact .append hf hbyte hlast
    · rw [consumeTail_count _ hrem hbyte]
      exact .count hf hbyte

/-- The work that a sample leaves before the fields every SMP writes, by the synchronizer's action (42_bit_clock_sync.md
R130 to R142), with the phase it acts in; a BIT also with its windows. -/
inductive SmpAction (p : Build) (x : Sample) (s : State) : Work → Prop where
  /-- No transition. -/
  | quiet : SmpAction p x s (openStep 0b00#2 s)
  /-- SEED. -/
  | seed (hp : s.phase = .unsynchronised) : SmpAction p x s (seed p s.inSampleCount (openStep 0b00#2 s))
  /-- HALF. -/
  | half : SmpAction p x s (halfBit (openStep 0b00#2 s))
  /-- CORRECT. -/
  | correct (hp : s.phase = .firstTransition) : SmpAction p x s (correct (halfPeriod s) (openStep 0b00#2 s))
  /-- ACQUIRE. -/
  | acquire (hp : s.phase = .firstTransition) : SmpAction p x s (acquire (openStep 0b00#2 s))
  /-- ACQFAIL. -/
  | acqFail (hp : s.phase = .firstTransition) : SmpAction p x s (acqFail (openStep 0b00#2 s))
  /-- BIT. -/
  | bit (hp : s.phase = .synchronised)
    (hm : midWindow p (halfPeriod s) (timingError s s.inSampleCount) = false)
    (hc : centreWindow p (timingError s s.inSampleCount) = true) :
    SmpAction p x s (framerBit p (decodedBit x) s.blockOffset
      (bitWork p (timingError s s.inSampleCount) x (openStep 0b00#2 s)))
  /-- LOST. -/
  | lost (hp : s.phase = .synchronised) : SmpAction p x s (lost (openStep 0b00#2 s))

theorem smpFor_action (p : Build) (x : Sample) (s : State) :
    ∃ v, SmpAction p x s v ∧ smpFor p x s = closeStep (sampleTaken x v) := by
  rcases smpFor_cases p x s with ⟨-, h⟩ | ⟨-, ⟨hp, h⟩ | ⟨hp, h⟩ | ⟨hp, h⟩⟩
  · exact ⟨_, .quiet, h⟩
  · exact ⟨_, .seed hp, h⟩
  · rcases h with ⟨-, h⟩ | ⟨-, -, h⟩ | ⟨-, -, -, h⟩ | ⟨-, -, -, h⟩
    · exact ⟨_, .half, h⟩
    · exact ⟨_, .correct hp, h⟩
    · exact ⟨_, .acquire hp, h⟩
    · exact ⟨_, .acqFail hp, h⟩
  · rcases h with ⟨-, h⟩ | ⟨hm, hc, h⟩ | ⟨-, -, h⟩
    · exact ⟨_, .half, h⟩
    · exact ⟨_, .bit hp hm hc, h⟩
    · exact ⟨_, .lost hp, h⟩

/-! What the actions keep. -/

/-- The fields that no action of the synchronizer or the framer writes: the history, the counters, the block fields, the
host's input, and the command's own fields of the response. -/
structure KeepsHistory (w v : Work) : Prop where
  op : v.resp.op = w.resp.op
  idx : v.resp.idx = w.resp.idx
  lastSample : v.st.lastSample = w.st.lastSample
  inSampleCount : v.st.inSampleCount = w.st.inSampleCount
  blockTs : v.st.blockTs = w.st.blockTs
  blockOffset : v.st.blockOffset = w.st.blockOffset
  pending : v.st.pending = w.st.pending

/-- The synchronizer's fields, which the framer does not write. -/
structure KeepsClock (s t : State) : Prop where
  phase : t.phase = s.phase
  d : t.d = s.d
  next : t.next = s.next

theorem FramerAction.keepsHistory {b : Bool} {off : Word64} {w v : Work} (h : FramerAction b off w v) :
    KeepsHistory w v := by
  cases h with
  | shift | reject | opened | count | append => exact ⟨rfl, rfl, rfl, rfl, rfl, rfl, rfl⟩
  | last =>
    constructor <;> simp only [complete_st, complete_op, complete_idx] <;> rfl

theorem FramerAction.keepsClock {b : Bool} {off : Word64} {w v : Work} (h : FramerAction b off w v) :
    KeepsClock w.st v.st := by
  cases h with
  | shift | reject | opened | count | append => exact ⟨rfl, rfl, rfl⟩
  | last =>
    rw [complete_st]
    exact ⟨rfl, rfl, rfl⟩

theorem KeepsHistory.trans {u v w : Work} (h : KeepsHistory u v) (h' : KeepsHistory v w) : KeepsHistory u w where
  op := h'.op.trans h.op
  idx := h'.idx.trans h.idx
  lastSample := h'.lastSample.trans h.lastSample
  inSampleCount := h'.inSampleCount.trans h.inSampleCount
  blockTs := h'.blockTs.trans h.blockTs
  blockOffset := h'.blockOffset.trans h.blockOffset
  pending := h'.pending.trans h.pending

/-- A work with ANY other period and prediction and a decoded bit: `bitWork` is one such, and no law over it looks at the
arithmetic behind the two. -/
def withClock (d next : Binary64) (bit : Bool) (w : Work) : Work where
  st := { w.st with d := d, next := next }
  resp := { w.resp with sev := .bit, bitValid := true, bit := bit }

theorem bitWork_eq_withClock (p : Build) (e : Binary64) (x : Sample) (w : Work) :
    bitWork p e x w =
      withClock (nudgedPeriod p w.st.d e) (Fp.add w.st.next (nudgedPeriod p w.st.d e)) (decodedBit x) w := rfl

theorem withClock_keepsHistory (d next : Binary64) (bit : Bool) (w : Work) : KeepsHistory w (withClock d next bit w) :=
  ⟨rfl, rfl, rfl, rfl, rfl, rfl, rfl⟩

theorem SmpAction.keepsHistory {p : Build} {x : Sample} {s : State} {v : Work} (h : SmpAction p x s v) :
    KeepsHistory (openStep 0b00#2 s) v := by
  cases h with
  | quiet | seed | half | correct | acquire | acqFail | lost => exact ⟨rfl, rfl, rfl, rfl, rfl, rfl, rfl⟩
  | bit =>
    rw [bitWork_eq_withClock]
    exact (withClock_keepsHistory _ _ _ _).trans (framerBit_action p _ _ _).keepsHistory

/-! Every command answers, and keeps the host's input. -/

theorem performFor_pending (p : Build) (i : Instr) (s : State) : (performFor p i s).pending = s.pending := by
  cases i with
  | smp x g =>
    obtain ⟨v, hv, h⟩ := smpFor_action p x s
    rw [performFor, h]
    exact hv.keepsHistory.pending
  | blk t => rfl
  | rsv2 a => rfl
  | rsv3 a => rfl

/-- The sample counter counts the SMPs (R27). -/
theorem performFor_inSampleCount (p : Build) (i : Instr) (s : State) :
    (performFor p i s).inSampleCount = if i.op = 0b00#2 then s.inSampleCount + 1 else s.inSampleCount := by
  cases i with
  | smp x g =>
    obtain ⟨v, hv, h⟩ := smpFor_action p x s
    rw [performFor, h]
    exact congrArg (· + 1) hv.keepsHistory.inSampleCount
  | blk t => rfl
  | rsv2 a => rfl
  | rsv3 a => rfl

/-- A command's response carries its `op` and the index before it (30_encoding.md R80). -/
theorem performFor_out (p : Build) (i : Instr) (s : State) :
    ∃ r, (performFor p i s).out = some r ∧ r.op = i.op ∧ r.idx = s.inSampleCount := by
  cases i with
  | smp x g =>
    obtain ⟨v, hv, h⟩ := smpFor_action p x s
    rw [performFor, h]
    exact ⟨_, rfl, hv.keepsHistory.op, hv.keepsHistory.idx⟩
  | blk t => exact ⟨_, rfl, rfl, rfl⟩
  | rsv2 a => exact ⟨_, rfl, rfl, rfl⟩
  | rsv3 a => exact ⟨_, rfl, rfl, rfl⟩

/-! The writers of the synchronizer's and the framer's fields, by event. -/

/-- A step with the synchronizer event `e` writes the phase, the period, the prediction and the accumulator only as the
rules of `e` say (R23, R24, R25, R29). -/
structure ClockWrites (s t : State) (e : SyncEvent) : Prop where
  phase : t.phase ≠ s.phase → e = .seed ∨ e = .acquire ∨ e = .lost ∨ e = .acqFail
  d : t.d ≠ s.d → e = .seed ∨ e = .bit
  next : t.next ≠ s.next → e = .seed ∨ e = .correct ∨ e = .acquire ∨ e = .bit
  acc : t.acc ≠ s.acc → e = .bit ∨ e = .lost

/-- A step with the framer event `e` writes the latch, the frame's header fields, its counts and its bytes only as the
rules of `e` say (R30 to R33). -/
structure FrameWrites (s t : State) (e : FramerEvent) : Prop where
  latch : t.frameTsBlock ≠ s.frameTsBlock ∨ t.frameTsOff ≠ s.frameTsOff → e = .tagOpen
  header : t.fphase ≠ s.fphase ∨ t.blen ≠ s.blen → e = .tagOpen ∨ e = .doneOk ∨ e = .doneFail ∨ e = .disc
  cursor : t.rem ≠ s.rem ∨ t.wcur ≠ s.wcur →
    e = .tagOpen ∨ e = .tail ∨ e = .doneOk ∨ e = .doneFail ∨ e = .disc
  buf : t.buf ≠ s.buf → e = .tagOpen ∨ e = .tail ∨ e = .doneOk ∨ e = .doneFail

theorem clockWrites_of_kept {s t : State} (e : SyncEvent) (h : KeepsClock s t) (hacc : t.acc = s.acc) :
    ClockWrites s t e :=
  ⟨fun hne => absurd h.phase hne, fun hne => absurd h.d hne, fun hne => absurd h.next hne, fun hne => absurd hacc hne⟩

theorem clockWrites_bit {s t : State} (h : t.phase = s.phase) : ClockWrites s t .bit :=
  ⟨absurd h, fun _ => .inr rfl, fun _ => .inr (.inr (.inr rfl)), fun _ => .inl rfl⟩

/-- The framer's fields other than the accumulator. -/
structure KeepsFrame (s t : State) : Prop where
  fphase : t.fphase = s.fphase
  buf : t.buf = s.buf
  blen : t.blen = s.blen
  wcur : t.wcur = s.wcur
  rem : t.rem = s.rem
  frameTsBlock : t.frameTsBlock = s.frameTsBlock
  frameTsOff : t.frameTsOff = s.frameTsOff

theorem frameWrites_of_kept {s t : State} (e : FramerEvent) (h : KeepsFrame s t) : FrameWrites s t e where
  latch hne := absurd hne (by simp [h.frameTsBlock, h.frameTsOff])
  header hne := absurd hne (by simp [h.fphase, h.blen])
  cursor hne := absurd hne (by simp [h.rem, h.wcur])
  buf hne := absurd h.buf hne

theorem FrameWrites.of_kept {s t u : State} {e : FramerEvent} (h : KeepsFrame s t) (hw : FrameWrites t u e) :
    FrameWrites s u e := by
  obtain ⟨hlatch, hheader, hcursor, hbuf⟩ := hw
  rw [h.frameTsBlock, h.frameTsOff] at hlatch
  rw [h.fphase, h.blen] at hheader
  rw [h.rem, h.wcur] at hcursor
  rw [h.buf] at hbuf
  exact ⟨hlatch, hheader, hcursor, hbuf⟩

theorem FramerAction.frameWrites {b : Bool} {off : Word64} {w v : Work} (h : FramerAction b off w v) :
    FrameWrites w.st v.st v.resp.fev := by
  cases h with
  | shift | reject => exact frameWrites_of_kept _ ⟨rfl, rfl, rfl, rfl, rfl, rfl, rfl⟩
  | opened => exact ⟨fun _ => rfl, fun _ => .inl rfl, fun _ => .inl rfl, fun _ => .inl rfl⟩
  | count | append =>
    exact ⟨(·.elim (absurd rfl) (absurd rfl)), (·.elim (absurd rfl) (absurd rfl)), fun _ => .inr (.inl rfl),
      fun _ => .inr (.inl rfl)⟩
  | last =>
    have hdone := complete_fev (appended (shifted b w))
    rw [complete_st]
    exact ⟨(·.elim (absurd rfl) (absurd rfl)), fun _ => .inr (hdone.imp_right .inl),
      fun _ => .inr (.inr (hdone.imp_right .inl)), fun _ => .inr (.inr hdone)⟩

/-- A decoded bit leaves the phase and the new period as they are when the framer takes it. -/
theorem framerBit_withClock (p : Build) (b : Bool) (off : Word64) (d next : Binary64) (bit : Bool) (w : Work) :
    (framerBit p b off (withClock d next bit w)).st.phase = w.st.phase ∧
      (framerBit p b off (withClock d next bit w)).st.d = d :=
  have h := (framerBit_action p b off (withClock d next bit w)).keepsClock
  ⟨h.phase, h.d⟩

theorem withClock_keepsFrame (d next : Binary64) (bit : Bool) (w : Work) :
    KeepsFrame w.st (withClock d next bit w).st := ⟨rfl, rfl, rfl, rfl, rfl, rfl, rfl⟩

theorem SmpAction.frameWrites {p : Build} {x : Sample} {s : State} {v : Work} (h : SmpAction p x s v) :
    FrameWrites s v.st v.resp.fev := by
  cases h with
  | quiet | seed | half | correct | acquire | acqFail => exact frameWrites_of_kept _ ⟨rfl, rfl, rfl, rfl, rfl, rfl, rfl⟩
  | bit =>
    rw [bitWork_eq_withClock]
    exact .of_kept (withClock_keepsFrame _ _ _ (openStep _ s)) (framerBit_action p _ _ _).frameWrites
  | lost =>
    exact ⟨(·.elim (absurd rfl) (absurd rfl)), fun _ => .inr (.inr (.inr rfl)),
      fun _ => .inr (.inr (.inr (.inr rfl))), absurd rfl⟩

theorem SmpAction.clockWrites {p : Build} {x : Sample} {s : State} {v : Work} (h : SmpAction p x s v) :
    ClockWrites s v.st v.resp.sev := by
  cases h with
  | quiet | half => exact clockWrites_of_kept _ ⟨rfl, rfl, rfl⟩ rfl
  | seed => exact ⟨fun _ => .inl rfl, fun _ => .inl rfl, fun _ => .inl rfl, absurd rfl⟩
  | correct => exact ⟨absurd rfl, absurd rfl, fun _ => .inr (.inl rfl), absurd rfl⟩
  | acquire => exact ⟨fun _ => .inr (.inl rfl), absurd rfl, fun _ => .inr (.inr (.inl rfl)), absurd rfl⟩
  | acqFail => exact ⟨fun _ => .inr (.inr (.inr rfl)), absurd rfl, absurd rfl, absurd rfl⟩
  | bit =>
    rw [framerBit_sev, bitWork_sev, bitWork_eq_withClock]
    exact clockWrites_bit (framerBit_withClock p _ _ _ _ _ (openStep _ s)).1
  | lost => exact ⟨fun _ => .inr (.inr (.inl rfl)), absurd rfl, absurd rfl, fun _ => .inr rfl⟩

/-- Every command writes the synchronizer's fields and the framer's only with their events. -/
theorem performFor_writes {p : Build} {s : State} {r : Response} (i : Instr) (hr : (performFor p i s).out = some r) :
    ClockWrites s (performFor p i s) r.sev ∧ FrameWrites s (performFor p i s) r.fev := by
  cases i with
  | smp x g =>
    obtain ⟨v, hv, h⟩ := smpFor_action p x s
    rw [performFor, h] at hr ⊢
    rw [closeStep_out, Option.some.injEq] at hr
    subst hr
    obtain ⟨hphase, hd, hnext, hacc⟩ := hv.clockWrites
    obtain ⟨hlatch, hheader, hcursor, hbuf⟩ := hv.frameWrites
    exact ⟨⟨hphase, hd, hnext, hacc⟩, ⟨hlatch, hheader, hcursor, hbuf⟩⟩
  | blk t | rsv2 a | rsv3 a =>
    exact ⟨clockWrites_of_kept _ ⟨rfl, rfl, rfl⟩ rfl, frameWrites_of_kept _ ⟨rfl, rfl, rfl, rfl, rfl, rfl, rfl⟩⟩

/-- SMP writes the history and both counters (R26, R27, R28). -/
theorem smpFor_history (p : Build) (x : Sample) (s : State) :
    (smpFor p x s).lastSample = x ∧ (smpFor p x s).inSampleCount = s.inSampleCount + 1 ∧
      (smpFor p x s).blockOffset = s.blockOffset + 1 ∧ (smpFor p x s).blockTs = s.blockTs := by
  obtain ⟨v, hv, h⟩ := smpFor_action p x s
  have hk := hv.keepsHistory
  rw [h]
  exact ⟨rfl, congrArg (· + 1) hk.inSampleCount, congrArg (· + 1) hk.blockOffset, hk.blockTs⟩

/-- Which commands write the history, the counters and the block fields (R26, R27, R28). -/
theorem performFor_history (p : Build) (i : Instr) (s : State) :
    ((∀ x g, i ≠ .smp x g) → (performFor p i s).lastSample = s.lastSample ∧
      (performFor p i s).inSampleCount = s.inSampleCount) ∧
    (∀ x g, i = .smp x g → (performFor p i s).lastSample = x ∧
      (performFor p i s).inSampleCount = s.inSampleCount + 1 ∧ (performFor p i s).blockOffset = s.blockOffset + 1) ∧
    ((∀ v, i ≠ .blk v) → (performFor p i s).blockTs = s.blockTs) ∧
    (∀ v, i = .blk v → (performFor p i s).blockTs = v ∧ (performFor p i s).blockOffset = 0) ∧
    ((∀ x g, i ≠ .smp x g) → (∀ v, i ≠ .blk v) → (performFor p i s).blockOffset = s.blockOffset) := by
  cases i with
  | smp x g =>
    obtain ⟨hlast, hcount, hoff, hts⟩ := smpFor_history p x s
    simp [performFor, hlast, hcount, hoff, hts]
  | blk v => simp [performFor, blkFor]
  | rsv2 a | rsv3 a => simp [performFor, reservedFor]

end Sys2Proof.Machine
end

section
/-!
PROOFS. The invariants I-F, I-S and I-D (10_state.md R34 to R36): each action of the framer and of the synchronizer keeps
them, and so does a step of any build whose nominal period is positive.
-/

namespace Sys2Proof.Machine

/-! The frame invariant. -/

/-- The frame invariant speaks of four fields. -/
theorem FrameInv.of_eq {s t : State} (h : FrameInv s) (hf : t.fphase = s.fphase) (hb : t.blen = s.blen)
    (hw : t.wcur = s.wcur) (hr : t.rem = s.rem) : FrameInv t where
  awaiting := by rw [hf, hb, hw, hr]; exact h.awaiting
  sizes := by rw [hf, hb]; exact h.sizes
  cursor := by rw [hf, hb, hw]; exact h.cursor
  tail := by rw [hf, hb, hw, hr]; exact h.tail

theorem frameInv_of_awaiting {s : State} (hf : s.fphase = .awaitTag) (hb : s.blen = 0) (hw : s.wcur = 0)
    (hr : s.rem = 0) : FrameInv s where
  awaiting _ := ⟨hb, hw, hr⟩
  sizes h := by simp [hf] at h
  cursor h := by simp [hf] at h
  tail h := by simp [hf] at h

/-- The bounds of a frame in flight, with its cursor equation rounded up. -/
structure FrameInFlight (blen wcur rem : Nat) : Prop where
  sizes : 16 ≤ blen ∧ blen ≤ maxFrame
  cursor : 8 ≤ wcur ∧ wcur + 1 ≤ blen
  tail : 1 ≤ rem ∧ rem ≤ 120 ∧ wcur + (rem + 7) / 8 = blen

theorem frameInv_of_inFlight {s : State} (hf : s.fphase = .consumeTail)
    (h : FrameInFlight s.blen.toNat s.wcur.toNat s.rem.toNat) : FrameInv s where
  awaiting ha := by simp [hf] at ha
  sizes _ := h.sizes
  cursor _ := h.cursor
  tail _ := h.tail

theorem FrameInv.inFlight {s : State} (h : FrameInv s) (hf : s.fphase = .consumeTail) :
    FrameInFlight s.blen.toNat s.wcur.toNat s.rem.toNat :=
  ⟨h.sizes hf, h.cursor hf, h.tail hf⟩

section
variable {blen wcur rem : Nat}

/-- Frame open: `L` from 8 to 15, eight bytes written and `8 * L` tail bits to come (43_framer.md R164). -/
theorem inFlight_opened {len : Nat} (h : 8 ≤ len) (h' : len ≤ 15) :
    FrameInFlight (1 + len + 7) 8 ((len - 6 + 7 - 1) * 8) where
  sizes := ⟨by omega, by simp only [maxFrame]; omega⟩
  cursor := by omega
  tail := by omega

/-- A tail bit inside a byte: rounding up, the byte still counts. -/
theorem FrameInFlight.count (h : FrameInFlight blen wcur rem) (hbyte : (rem - 1) % 8 ≠ 0) :
    FrameInFlight blen wcur (rem - 1) := by
  obtain ⟨hsizes, hcursor, htail⟩ := h
  exact ⟨hsizes, hcursor, by omega⟩

/-- A tail bit that ends a byte but not the frame: the cursor takes the byte over. -/
theorem FrameInFlight.append (h : FrameInFlight blen wcur rem) (hbyte : (rem - 1) % 8 = 0) (hmore : rem ≠ 1) :
    FrameInFlight blen (wcur + 1) (rem - 1) := by
  obtain ⟨hsizes, hcursor, htail⟩ := h
  exact ⟨hsizes, by omega, by omega⟩

end

/-- The tail count of a frame in flight does not wrap. -/
theorem toNat_rem_sub_one {r : BitVec 7} (h : 1 ≤ r.toNat) : (r - 1).toNat = r.toNat - 1 :=
  BitVec.toNat_sub_of_le (BitVec.le_def.mpr h)

/-- The cursor inside the buffer does not wrap. -/
theorem toNat_wcur_add_one {c : BitVec 5} (h : c.toNat < maxFrame) : (c + 1).toNat = c.toNat + 1 := by
  simp only [maxFrame] at h
  rw [BitVec.toNat_add, show (1 : BitVec 5).toNat = 1 from rfl]
  omega

/-- Every action of the framer keeps the frame invariant. -/
theorem FramerAction.frameInv {b : Bool} {off : Word64} {w v : Work} (h : FramerAction b off w v)
    (hw : FrameInv w.st) : FrameInv v.st := by
  cases h with
  | shift | reject => exact hw.of_eq rfl rfl rfl rfl
  | opened hf hlen =>
    have hmax : (lengthField (shifted b w).st.acc).toNat < 16 := (lengthField (shifted b w).st.acc).isLt
    refine frameInv_of_inFlight rfl ?_
    rw [tagOpen_blen, tagOpen_wcur, tagOpen_rem, BitVec.toNat_ofNat, BitVec.toNat_ofNat,
      Nat.mod_eq_of_lt (by omega), Nat.mod_eq_of_lt (by omega)]
    exact inFlight_opened hlen (Nat.le_of_lt_succ hmax)
  | count hf hbyte =>
    have hflight := hw.inFlight hf
    have hrem := toNat_rem_sub_one hflight.tail.1
    refine frameInv_of_inFlight hf ?_
    simp only [raiseFramer_st, counted, shifted]
    rw [hrem] at hbyte ⊢
    exact hflight.count hbyte
  | append hf hbyte hmore =>
    have hflight := hw.inFlight hf
    have hrem := toNat_rem_sub_one hflight.tail.1
    have hcur := toNat_wcur_add_one (hflight.cursor.2.trans hflight.sizes.2)
    have hne : w.st.rem.toNat ≠ 1 := fun h => hmore (sub_eq_zero.mpr (BitVec.eq_of_toNat_eq h))
    refine frameInv_of_inFlight hf ?_
    simp only [raiseFramer_st, appended, shifted]
    rw [hrem] at hbyte ⊢
    rw [hcur]
    exact hflight.append hbyte hne
  | last hf hone =>
    rw [complete_st]
    refine frameInv_of_awaiting rfl rfl rfl ?_
    rw [freeFrame_rem]
    exact sub_eq_zero.mpr hone

/-- Every action of the synchronizer keeps the frame invariant. -/
theorem SmpAction.frameInv {p : Build} {x : Sample} {s : State} {v : Work} (h : SmpAction p x s v)
    (hs : FrameInv s) : FrameInv v.st := by
  cases h with
  | quiet | seed | half | correct | acquire | acqFail => exact hs.of_eq rfl rfl rfl rfl
  | bit =>
    rw [bitWork_eq_withClock]
    obtain ⟨hf, -, hb, hw, hr, -, -⟩ := withClock_keepsFrame (nudgedPeriod p s.d (timingError s s.inSampleCount))
      (Fp.add s.next (nudgedPeriod p s.d (timingError s s.inSampleCount))) (decodedBit x) (openStep 0b00#2 s)
    exact (framerBit_action p _ _ _).frameInv (hs.of_eq hf hb hw hr)
  | lost => exact frameInv_of_awaiting rfl rfl rfl rfl

/-! The synchronizer invariant. -/

theorem syncInv_of_synchronised {s : State} (h : s.phase = .synchronised) : SyncInv s := fun hne => absurd h hne

/-- Outside SYNCHRONISED the framer rests, and only LOST leaves SYNCHRONISED. -/
theorem SmpAction.syncInv {p : Build} {x : Sample} {s : State} {v : Work} (h : SmpAction p x s v)
    (hs : SyncInv s) : SyncInv v.st := by
  cases h with
  | quiet | half => exact hs
  | seed hp | correct hp | acqFail hp => exact fun _ => hs (by simp [hp])
  | acquire => exact syncInv_of_synchronised rfl
  | bit hp =>
    rw [bitWork_eq_withClock]
    exact syncInv_of_synchronised ((framerBit_withClock p _ _ _ _ _ (openStep _ s)).1.trans hp)
  | lost => exact fun _ => ⟨rfl, rfl, rfl⟩

/-! The period invariant. -/

section
variable {p : Build}

/-- Only SEED and BIT write the period, and both leave it positive. -/
theorem SmpAction.periodInv {x : Sample} {s : State} {v : Work} (h : SmpAction p x s v)
    (h0 : Fp.lt Fp.zero (nominalPeriod p) = true) (hs : PeriodInv s) : PeriodInv v.st := by
  cases h with
  | quiet | half | correct | acquire | acqFail | lost => exact hs
  | seed => exact h0
  | bit hp hm hc =>
    rw [PeriodInv, bitWork_eq_withClock, (framerBit_withClock p _ _ _ _ _ (openStep _ s)).2]
    exact nudgedPeriod_pos p hs hm hc

theorem performFor_periodInv (i : Instr) {s : State} (h0 : Fp.lt Fp.zero (nominalPeriod p) = true)
    (hs : PeriodInv s) : PeriodInv (performFor p i s) := by
  cases i with
  | smp x g =>
    obtain ⟨v, hv, h⟩ := smpFor_action p x s
    rw [performFor, h]
    exact hv.periodInv h0 hs
  | blk t | rsv2 a | rsv3 a => exact hs

/-! All three, for every kind of step. -/

/-- The invariants speak of seven fields. -/
theorem Inv.of_eq {s t : State} (h : Inv s) (hphase : t.phase = s.phase) (hd : t.d = s.d) (hacc : t.acc = s.acc)
    (hf : t.fphase = s.fphase) (hb : t.blen = s.blen) (hw : t.wcur = s.wcur) (hr : t.rem = s.rem) : Inv t where
  frame := h.frame.of_eq hf hb hw hr
  sync := by rw [SyncInv, hphase, hacc, hf, hb]; exact h.sync
  period := by rw [PeriodInv, hd]; exact h.period

theorem performFor_inv (i : Instr) {s : State} (h0 : Fp.lt Fp.zero (nominalPeriod p) = true) (hs : Inv s) :
    Inv (performFor p i s) := by
  cases i with
  | smp x g =>
    obtain ⟨v, hv, h⟩ := smpFor_action p x s
    have hinv : Inv v.st := ⟨hv.frameInv hs.frame, hv.syncInv hs.sync, hv.periodInv h0 hs.period⟩
    rw [performFor, h]
    exact hinv.of_eq rfl rfl rfl rfl rfl rfl rfl
  | blk t | rsv2 a | rsv3 a => exact hs.of_eq rfl rfl rfl rfl rfl rfl rfl

theorem resetFor_inv (h0 : Fp.lt Fp.zero (nominalPeriod p) = true) : Inv (State.resetFor p) :=
  ⟨frameInv_of_awaiting rfl rfl rfl rfl, fun _ => ⟨rfl, rfl, rfl⟩, h0⟩

theorem stepFor_inv {s : State} (h0 : Fp.lt Fp.zero (nominalPeriod p) = true) (hs : Inv s) : Inv (stepFor p s) := by
  unfold stepFor
  rcases takeInput_cases s with ⟨-, h⟩ | ⟨input, rest, -, h⟩ <;> rw [h]
  · exact hs.of_eq rfl rfl rfl rfl rfl rfl rfl
  · have htaken : Inv { s with pending := rest } := hs.of_eq rfl rfl rfl rfl rfl rfl rfl
    cases input with
    | command beat => exact performFor_inv _ h0 htaken
    | reset => exact (resetFor_inv h0).of_eq rfl rfl rfl rfl rfl rfl rfl

end

theorem standard_nominalPeriod_pos : Fp.lt Fp.zero (nominalPeriod standardBuild) = true :=
  nominalPeriod_pos standardBuild (by decide +kernel) (by decide +kernel)

end Sys2Proof.Machine
end

section
/-!
PROOFS. Commands offered in a row (20_memory.md R60): a step takes the oldest of them, and a run answers them in order.
-/

namespace Sys2Proof.Machine

/-- The low bits of two fields put together are the lower field, the high bits the upper one. -/
theorem extract_smp_payload (x : Sample) (ignored : BitVec 48) :
    payloadSample (ignored ++ x : BitVec (48 + 16)) = x ∧ payloadIgnored (ignored ++ x : BitVec (48 + 16)) = ignored :=
  ⟨BitVec.extractLsb'_append_eq_right, BitVec.extractLsb'_append_eq_left⟩

theorem decode_encode (i : Instr) : decode (encode i) = i := by
  have fields : beatOp (encode i) = i.op ∧ beatPayload (encode i) = i.payload := Laws.EncodeFields.of_fields _ _
  unfold decode
  rw [fields.1, fields.2]
  cases i with
  | smp x ignored =>
    obtain ⟨hx, hi⟩ := extract_smp_payload x ignored
    simp [Instr.op, Instr.payload, hx, hi]
  | blk t | rsv2 v | rsv3 v => simp [Instr.op, Instr.payload]

/-- The step of an offered command performs exactly it. -/
theorem step_offer (i : Instr) (s : State) (rest : List HostInput) :
    step { s with pending := offer i :: rest } = .next (performFor standardBuild i { s with pending := rest }) := by
  have h : step { s with pending := offer i :: rest } = exec (decode (encode i)) { s with pending := rest } := rfl
  rw [h, decode_encode, exec_eq_performFor]

/-- The step on an asserted reset. -/
theorem step_reset {s : State} {rest : List HostInput} (h : s.pending = .reset :: rest) :
    step s = .next { State.reset with pending := rest } := by
  simp only [step, takeInput, h]
  rfl

/-- The number of SMPs in a list of commands. -/
def sampleCount (is : List Instr) : Nat := is.countP (fun i => decide (i.op = 0b00#2))

/-- A command counts itself, and the commands after it count on. -/
theorem performFor_inSampleCount_add (p : Build) (i : Instr) (is : List Instr) (s : State) :
    (performFor p i s).inSampleCount + BitVec.ofNat 64 (sampleCount is) =
      s.inSampleCount + BitVec.ofNat 64 (sampleCount (i :: is)) := by
  rw [performFor_inSampleCount, sampleCount, sampleCount, List.countP_cons]
  by_cases h : i.op = 0b00#2
  · rw [if_pos h, if_pos (decide_eq_true h), BitVec.ofNat_add, add_assoc, add_comm 1]
    rfl
  · rw [if_neg h, if_neg (by simpa using h), Nat.add_zero]

/-- The state that has its input already is itself. -/
theorem with_pending_eq {s : State} {l : List HostInput} (h : s.pending = l) : { s with pending := l } = s := by
  rw [← h]

end Sys2Proof.Machine
end

section
/-!
PROOFS. The statements about the state (10_state.md): reset, the invariants, the writers of each field, and the order of
responses, each from the facts above.
-/

namespace Sys2Proof.Machine

/-- Settles O5: the reset step gives the reset state, field by field, and keeps the input. -/
theorem resetSetsEveryField : Obligations.ResetSetsEveryField :=
  ⟨by decide +kernel, fun _ _ h => ⟨_, step_reset h, step_reset h⟩⟩

/-- Settles O35: the framer rests, and the standard rates are finite. -/
theorem invariantsHoldAtReset : Obligations.InvariantsHoldAtReset := resetFor_inv standard_nominalPeriod_pos

/-- Settles O36: a step is one of the standard build, whose nominal period is positive. -/
theorem everyStepKeepsTheInvariants : Obligations.EveryStepKeepsTheInvariants := by
  intro s t hs hstep
  rw [step_eq_stepFor] at hstep
  cases hstep
  exact stepFor_inv standard_nominalPeriod_pos hs

/-- Settles O38: finite rates make the nominal period positive, and BIT keeps a positive period (`nudgedPeriod_pos`). -/
theorem periodStaysPositiveInEveryBuild : Obligations.PeriodStaysPositiveInEveryBuild := by
  intro p hfs hrate
  have h0 := nominalPeriod_pos p hfs hrate
  exact ⟨h0, fun i _ hs => performFor_periodInv i h0 hs⟩

/-- A legal build whose rates are both `2^1024`, which `f64` takes to an infinity. -/
def overflowingRates : Build where
  params := { Config.standard with fs := 2 ^ 1024, dataRate := 2 ^ 1024 }
  legal := by decide +kernel

/-- Refutes O39: with both rates infinite the nominal period is a NaN. -/
theorem not_periodIsPositiveInEveryLegalBuild : ¬ Obligations.PeriodIsPositiveInEveryLegalBuild := by
  intro h
  have hinf : Fp.unpack (Fp.ofInt overflowingRates.params.fs) = .inf false := by decide +kernel
  have hnan : Fp.unpack (nominalPeriod overflowingRates) = .nan := Fp.unpack_div_of_inf hinf hinf
  have hpos : Fp.lt Fp.zero (nominalPeriod overflowingRates) = true := h overflowingRates
  rw [Fp.lt_eq_false_of_nan (.inr hnan)] at hpos
  exact Bool.false_ne_true hpos

/-- A frame of 16 bytes right after its header, with its first tail bit on the input: a transition at index 141, five
samples after its prediction 136. -/
def beforeFirstTailBit : State :=
  { State.reset with
    phase := .synchronised
    next := 0x4061000000000000
    lastSample := -1
    inSampleCount := 141
    fphase := .consumeTail
    blen := 16
    wcur := 8
    rem := 64
    pending := [offer (.smp 0 0)] }

theorem beforeFirstTailBit_inv : Inv beforeFirstTailBit where
  frame := frameInv_of_inFlight rfl ⟨by decide, by decide, by decide⟩
  sync := syncInv_of_synchronised rfl
  period := standard_nominalPeriod_pos

/-- Refutes O37: the first tail bit leaves 63 bits to come with the cursor at 8, and `8 + 63 / 8` is not 16. -/
theorem not_cursorEquationRoundedDownIsKept : ¬ Obligations.CursorEquationRoundedDownIsKept := by
  intro h
  have after : (stepFor standardBuild beforeFirstTailBit).fphase = .consumeTail ∧
      (stepFor standardBuild beforeFirstTailBit).wcur = 8 ∧ (stepFor standardBuild beforeFirstTailBit).rem = 63 ∧
      (stepFor standardBuild beforeFirstTailBit).blen = 16 := by decide +kernel
  obtain ⟨hf, hw, hr, hb⟩ := after
  obtain ⟨hsum, -⟩ := h _ _ beforeFirstTailBit_inv (fun _ => by decide) (step_eq_stepFor _) hf
  rw [hw, hr, hb] at hsum
  exact absurd hsum (by decide)

/-- Settles O56: rounding up and rounding down agree exactly at the multiples of 8, and differ by 1 elsewhere. -/
theorem cursorEquationHoldsAtWholeBytes : Obligations.CursorEquationHoldsAtWholeBytes := by
  intro s hs hf
  obtain ⟨-, -, hsum⟩ := hs.tail hf
  constructor
  · omega
  · omega

/-- Settles O33: the synchronizer's and the framer's writers by event (`performFor_writes`), and the fields that SMP and
BLK write by command. -/
theorem fieldsAreWrittenOnlyByTheirRules : Obligations.FieldsAreWrittenOnlyByTheirRules := by
  intro p i s r hr t
  obtain ⟨clock, frame⟩ := performFor_writes i hr
  obtain ⟨hnotSmp, hsmp, hnotBlk, hblk, hother⟩ := performFor_history p i s
  exact ⟨clock.phase, clock.d, clock.next, hnotSmp, hsmp, hnotBlk, hblk, hother, clock.acc, frame.latch, frame.header,
    frame.cursor, frame.buf⟩

/-- Settles O29, by induction on the index: the first command is answered and leaves the rest on the input. -/
theorem responsesComeInOrder : Obligations.ResponsesComeInOrder := by
  intro s is j
  induction j generalizing s is with
  | zero =>
    intro h
    cases is with
    | nil => simp at h
    | cons i is =>
      obtain ⟨r, hr, hop, hidx⟩ := performFor_out standardBuild i { s with pending := is.map offer }
      refine ⟨_, r, (run_next 0 (step_offer i s _)).trans (run_zero _), hr, hop, performFor_pending _ _ _, ?_⟩
      simpa using hidx
  | succ j ih =>
    intro h
    cases is with
    | nil => simp at h
    | cons i is =>
      have hpend := performFor_pending standardBuild i { s with pending := is.map offer }
      obtain ⟨t, r, hrun, hr, hop, hrest, hidx⟩ :=
        ih (performFor standardBuild i { s with pending := is.map offer }) is (by simpa using h)
      rw [with_pending_eq hpend] at hrun
      exact ⟨t, r, (run_next (j + 1) (step_offer i s _)).trans hrun, hr, hop, hrest,
        hidx.trans (performFor_inSampleCount_add standardBuild i (is.take j) { s with pending := is.map offer })⟩

end Sys2Proof.Machine
end

section
/-!
PROOFS. A frame's tail passing the framer (43_framer.md R166, R167): the bits of a byte append that byte, the bits of the
whole tail collect it behind the header, and the last of them completes the frame on the record collected.
-/

namespace Sys2Proof.Machine

open Sys2Proof.Spec

/-! Feeding bits. -/

theorem feedBits_cons (p : Build) (off : Word64) (b : Bool) (bits : List Bool) (w : Work) :
    feedBits p off (b :: bits) w = feedBits p off bits (framerBit p b off w) := rfl

theorem feedBits_append (p : Build) (off : Word64) (l m : List Bool) (w : Work) :
    feedBits p off (l ++ m) w = feedBits p off m (feedBits p off l w) := List.foldl_append

theorem recordBits_cons (v : Byte) (bytes : List Byte) : recordBits (v :: bytes) = byteBits v ++ recordBits bytes := rfl

/-- The seven bits of a byte that come before its last one. -/
def leadingBits (v : Byte) : List Bool := (List.range 7).map v.getMsbD

theorem byteBits_eq_leadingBits_append (v : Byte) : byteBits v = leadingBits v ++ [v.getMsbD 7] := rfl

/-- Shifted in most significant bit first, a byte stands in the low bits of the accumulator (R54, R160). -/
theorem extractLsb_foldl_shiftIn_byteBits (v : Byte) (acc : Word64) :
    ((byteBits v).foldl shiftIn acc).extractLsb 7 0 = v := by
  ext i hi
  simp only [byteBits, List.range, List.range.loop, List.map, List.foldl, shiftIn]
  interval_cases i <;> simp [BitVec.getMsbD_eq_getLsbD]

/-! The bits of one tail byte. -/

/-- The work after some bits of the tail that end no byte. -/
def bitsCounted (bits : List Bool) (w : Work) : Work :=
  { w with st := { w.st with
      acc := bits.foldl shiftIn w.st.acc
      rem := w.st.rem - BitVec.ofNat 7 bits.length } }

/-- The work after the eight bits of a byte of the tail, the frame not complete. -/
def byteTaken (w : Work) (v : Byte) : Work :=
  raiseFramer .tail
    { w with st := { w.st with
        acc := (byteBits v).foldl shiftIn w.st.acc
        rem := w.st.rem - 8
        buf := storeByte w.st.buf w.st.wcur v
        wcur := w.st.wcur + 1 } }

@[simp] theorem byteTaken_fphase (w : Work) (v : Byte) : (byteTaken w v).st.fphase = w.st.fphase := rfl

@[simp] theorem byteTaken_rem (w : Work) (v : Byte) : (byteTaken w v).st.rem = w.st.rem - 8 := rfl

/-- Tail bits that end no byte are shifted in and counted, and raise TAIL (R166). -/
theorem feedBits_inside_byte (p : Build) (off : Word64) (bits : List Bool) (w : Work) (hf : w.st.fphase = .consumeTail)
    (hrem : 1 ≤ w.st.rem.toNat) (hlen : bits.length ≤ (w.st.rem.toNat - 1) % 8) :
    ∃ e, feedBits p off bits w = raiseFramer e (bitsCounted bits w) := by
  induction bits generalizing w with
  | nil =>
    refine ⟨w.resp.fev, ?_⟩
    have hzero : w.st.rem - BitVec.ofNat 7 0 = w.st.rem := BitVec.sub_zero _
    simp only [bitsCounted, List.length_nil, hzero]
    rfl
  | cons b bits ih =>
    have hsub := toNat_rem_sub_one hrem
    rw [List.length_cons] at hlen
    have hfirst : framerBit p b off w = raiseFramer .tail (counted (shifted b w)) := by
      rw [framerBit_consumeTail p b off w hf]
      exact consumeTail_count _ rfl (by simp only [shifted, hsub]; omega)
    have hrem' : (raiseFramer .tail (counted (shifted b w))).st.rem.toNat = w.st.rem.toNat - 1 := hsub
    obtain ⟨e, he⟩ := ih (raiseFramer .tail (counted (shifted b w))) hf (by omega) (by omega)
    refine ⟨e, ?_⟩
    have hcount : w.st.rem - 1 - BitVec.ofNat 7 bits.length = w.st.rem - BitVec.ofNat 7 (bits.length + 1) := by
      rw [BitVec.ofNat_add, sub_sub, add_comm]
      rfl
    rw [feedBits_cons, hfirst, he]
    simp only [bitsCounted, raiseFramer, counted, shifted, hcount, List.length_cons, List.foldl_cons]

/-- Seven bits of a byte and its last one count as eight. -/
theorem rem_sub_seven_sub_one (r : BitVec 7) : r - BitVec.ofNat 7 7 - 1 = r - 8 := by
  rw [sub_sub]
  rfl

section
variable (p : Build) (off : Word64) (v : Byte) {w : Work}

/-- The last bit of a byte reaches the framer with the byte in the accumulator's low bits, whatever was raised before. -/
theorem appended_last_bit (e : FramerEvent) :
    raiseFramer .tail (appended (shifted (v.getMsbD 7) (raiseFramer e (bitsCounted (leadingBits v) w)))) =
      byteTaken w v := by
  have hacc : shiftIn ((leadingBits v).foldl shiftIn w.st.acc) (v.getMsbD 7) = (byteBits v).foldl shiftIn w.st.acc := rfl
  have hlen : (leadingBits v).length = 7 := rfl
  simp only [raiseFramer, appended, shifted, bitsCounted, byteTaken, hacc, hlen, rem_sub_seven_sub_one,
    extractLsb_foldl_shiftIn_byteBits]

/-- The tail count goes down by eight, bit by bit. -/
theorem toNat_rem_sub_eight {r : BitVec 7} {m : Nat} (h : r.toNat = 8 * (m + 1)) : (r - 8).toNat = 8 * m := by
  have hle : (8 : BitVec 7) ≤ r := BitVec.le_def.mpr (by rw [h]; exact Nat.le_mul_of_pos_right 8 m.succ_pos)
  rw [BitVec.toNat_sub_of_le hle, h]
  exact Nat.add_sub_cancel (8 * m) 8

/-- The bits of a byte up to its last one, which is left to `ConsumeTail`. -/
theorem feedBits_byteBits_last_bit {m : Nat} (hf : w.st.fphase = .consumeTail) (hrem : w.st.rem.toNat = 8 * (m + 1)) :
    ∃ e, feedBits p off (byteBits v) w =
      consumeTail (shifted (v.getMsbD 7) (raiseFramer e (bitsCounted (leadingBits v) w))) := by
  have hlen : (leadingBits v).length ≤ (w.st.rem.toNat - 1) % 8 := by
    rw [hrem, show (leadingBits v).length = 7 from rfl]
    omega
  obtain ⟨e, he⟩ := feedBits_inside_byte p off (leadingBits v) w hf (by omega) hlen
  refine ⟨e, ?_⟩
  rw [byteBits_eq_leadingBits_append, feedBits_append, he]
  exact framerBit_consumeTail p _ off _ hf

/-- A byte of the tail that does not end the frame is appended (R166). -/
theorem feedBits_byteBits {m : Nat} (hf : w.st.fphase = .consumeTail) (hrem : w.st.rem.toNat = 8 * (m + 1))
    (hm : m ≠ 0) : feedBits p off (byteBits v) w = byteTaken w v := by
  obtain ⟨e, he⟩ := feedBits_byteBits_last_bit p off v hf hrem
  have hcount := rem_sub_seven_sub_one w.st.rem
  have hleft := toNat_rem_sub_eight hrem
  have hmore : w.st.rem - 8 ≠ 0 := fun h0 => by
    rw [h0, show (0 : BitVec 7).toNat = 0 from rfl] at hleft
    omega
  rw [he, consumeTail_append (r := w.st.rem - BitVec.ofNat 7 7) _ rfl (by rw [hcount, hleft]; omega)
    (by rw [hcount]; exact hmore)]
  exact appended_last_bit v e

/-- Completing a frame replaces the framer's event. -/
theorem complete_raiseFramer (e : FramerEvent) (w : Work) : complete (raiseFramer e w) = complete w := by
  unfold complete
  dsimp only [raiseFramer]
  split <;> rfl

/-- The last byte of the tail is appended, and the frame completed (R166, R167). -/
theorem feedBits_byteBits_completes (hf : w.st.fphase = .consumeTail) (hrem : w.st.rem.toNat = 8) :
    feedBits p off (byteBits v) w = complete (byteTaken w v) := by
  obtain ⟨e, he⟩ := feedBits_byteBits_last_bit (m := 0) p off v hf hrem
  have hone : w.st.rem - BitVec.ofNat 7 7 = 1 := by
    rw [BitVec.eq_of_toNat_eq (y := (8 : BitVec 7)) hrem]
    rfl
  rw [he, consumeTail_last _ hone, ← complete_raiseFramer .tail, appended_last_bit v e]

/-- A tail of as many bytes as its bits ask for is taken byte by byte, and then the frame is completed. -/
theorem feedBits_recordBits_completes (bytes : List Byte) (hf : w.st.fphase = .consumeTail) (hne : bytes ≠ [])
    (hrem : w.st.rem.toNat = 8 * bytes.length) :
    feedBits p off (recordBits bytes) w = complete (bytes.foldl byteTaken w) := by
  induction bytes generalizing w with
  | nil => exact absurd rfl hne
  | cons v bytes ih =>
    rw [List.length_cons] at hrem
    rw [recordBits_cons, feedBits_append, List.foldl_cons]
    cases bytes with
    | nil =>
      rw [feedBits_byteBits_completes p off v hf hrem]
      rfl
    | cons v' bytes =>
      have hmore : (v' :: bytes).length ≠ 0 := Nat.succ_ne_zero _
      have hleft : (byteTaken w v).st.rem.toNat = 8 * (v' :: bytes).length :=
        (byteTaken_rem w v).symm ▸ toNat_rem_sub_eight hrem
      rw [feedBits_byteBits p off v hf hrem hmore]
      exact ih ((byteTaken_fphase w v).trans hf) (List.cons_ne_nil _ _) hleft

end

/-! The bytes collected. -/

/-- The bytes of a buffer below the cursor `n`, in buffer order. -/
def bytesBelow (b : FrameBuffer) (n : Nat) : List Byte := (List.range n).map (loadByte b)

/-- The frame's bytes are those below its size (20_memory.md R50). -/
theorem frameBytes_eq_bytesBelow (s : State) : frameBytes s = bytesBelow s.buf s.blen.toNat := rfl

/-- A store at the cursor leaves the bytes below it and adds its own. -/
theorem bytesBelow_storeByte (b : FrameBuffer) (cur : BitVec 5) (v : Byte) (h : cur.toNat < maxFrame) :
    bytesBelow (storeByte b cur v) (cur.toNat + 1) = bytesBelow b cur.toNat ++ [v] := by
  unfold bytesBelow
  rw [List.range_succ, List.map_append, List.map_singleton, loadByte_storeByte b cur v _ h h, if_pos rfl]
  congr 1
  refine List.map_congr_left fun i hi => ?_
  have hlt : i < cur.toNat := List.mem_range.mp hi
  rw [loadByte_storeByte b cur v i h (hlt.trans h), if_neg hlt.ne']

/-- Frame open writes the eight bytes of the accumulator (R164). -/
theorem bytesBelow_headerBytes (b : FrameBuffer) (acc : Word64) : bytesBelow (headerBytes b acc) 8 = headerOf acc := by
  refine List.map_congr_left fun i hi => ?_
  have hlt : i < 8 := List.mem_range.mp hi
  rw [loadByte_inside _ i (hlt.trans (by decide)), headerBytes_getElem, if_pos hlt]

/-- The frame opened in `w₀` has collected the bytes `got`; its size, its latch and the descriptor's flag are those it was
opened with. -/
structure Collected (w₀ : Work) (got : List Byte) (w : Work) : Prop where
  cursor : w.st.wcur.toNat = got.length
  bytes : bytesBelow w.st.buf got.length = got
  blen : w.st.blen = w₀.st.blen
  tsBlock : w.st.frameTsBlock = w₀.st.frameTsBlock
  tsOff : w.st.frameTsOff = w₀.st.frameTsOff
  descValid : w.resp.descValid = w₀.resp.descValid

/-- A byte of the tail is collected at the end, where the buffer has room. -/
theorem Collected.append_byte {w₀ w : Work} {got : List Byte} (h : Collected w₀ got w) (v : Byte)
    (hroom : got.length < maxFrame) : Collected w₀ (got ++ [v]) (byteTaken w v) where
  cursor := by
    rw [List.length_append, ← h.cursor]
    exact toNat_wcur_add_one (h.cursor ▸ hroom)
  bytes := by
    rw [List.length_append, ← h.cursor]
    refine (bytesBelow_storeByte w.st.buf w.st.wcur v (h.cursor ▸ hroom)).trans ?_
    rw [h.cursor, h.bytes]
  blen := h.blen
  tsBlock := h.tsBlock
  tsOff := h.tsOff
  descValid := h.descValid

/-- The bytes of a whole tail are collected in order, where the buffer has room for all. -/
theorem Collected.append_bytes {w₀ w : Work} {got : List Byte} (h : Collected w₀ got w) (bytes : List Byte)
    (hroom : got.length + bytes.length ≤ maxFrame) : Collected w₀ (got ++ bytes) (bytes.foldl byteTaken w) := by
  induction bytes generalizing w got with
  | nil => rwa [List.append_nil]
  | cons v bytes ih =>
    rw [List.length_cons] at hroom
    rw [List.append_cons]
    refine ih (h.append_byte v (by omega)) ?_
    rw [List.length_append, List.length_singleton]
    omega

/-- At its full size, the frame in the buffer is what was collected. -/
theorem Collected.frameBytes_eq {w₀ w : Work} {got : List Byte} (h : Collected w₀ got w)
    (hsize : w₀.st.blen.toNat = got.length) : frameBytes w.st = got := by
  rw [frameBytes_eq_bytesBelow, h.blen, hsize, h.bytes]

/-! Opening a frame, and completing it. -/

section
variable (p : Build) (b : Bool) (off : Word64) {w : Work}

/-- The bit that completes a tag with a length of 8 or more opens a frame (R161, R162, R164). -/
theorem framerBit_opens (hf : w.st.fphase = .awaitTag) (htag : tagWindow (shiftIn w.st.acc b) = p.params.tag)
    (hlen : 8 ≤ (lengthField (shiftIn w.st.acc b)).toNat) : framerBit p b off w = tagOpen off (shifted b w) := by
  rw [framerBit_awaitTag p b off w hf]
  rcases awaitTag_cases p off (shifted b w) with ⟨hno, -⟩ | ⟨-, hshort, -⟩ | ⟨-, -, hopen⟩
  · exact absurd htag hno
  · exact absurd hlen (Nat.not_le.mpr hshort)
  · exact hopen

/-- A frame just opened has collected its header (R164). -/
theorem collected_tagOpen : Collected (tagOpen off w) (headerOf w.st.acc) (tagOpen off w) where
  cursor := rfl
  bytes := bytesBelow_headerBytes w.st.buf w.st.acc
  blen := rfl
  tsBlock := rfl
  tsOff := rfl
  descValid := rfl

/-- Eight header bytes and `L` bytes to come (R164). -/
theorem toNat_tagOpen_blen : (tagOpen off w).st.blen.toNat = 8 + (lengthField w.st.acc).toNat := by
  have hmax := (lengthField w.st.acc).isLt
  rw [tagOpen_blen, BitVec.toNat_ofNat]
  omega

/-- Eight bits for each of the `L` bytes to come (R164). -/
theorem toNat_tagOpen_rem (hlen : 8 ≤ (lengthField w.st.acc).toNat) :
    (tagOpen off w).st.rem.toNat = 8 * (lengthField w.st.acc).toNat := by
  have hmax := (lengthField w.st.acc).isLt
  rw [tagOpen_rem, BitVec.toNat_ofNat]
  omega

end

/-- The residue is reported whether the frame is accepted or not (R191). -/
theorem complete_crc (w : Work) : (complete w).resp.crc = crc16 (frameBytes w.st) := by
  rcases complete_cases w with ⟨-, h⟩ | ⟨-, h⟩ <;> rw [h] <;> rfl

/-- With residue 0 the frame and its timestamp pair go out (R200, R201). -/
theorem complete_accepts {w : Work} (h0 : crc16 (frameBytes w.st) = 0) :
    (complete w).resp.fev = .doneOk ∧ (complete w).resp.descValid = true ∧ (complete w).resp.descLen = w.st.blen ∧
      (complete w).resp.descData = descLanes (frameBytes w.st) ∧ (complete w).resp.tsBlock = w.st.frameTsBlock ∧
        (complete w).resp.tsOff = w.st.frameTsOff := by
  rcases complete_cases w with ⟨-, h⟩ | ⟨hne, -⟩
  · rw [h]
    exact ⟨rfl, rfl, rfl, rfl, rfl, rfl⟩
  · exact absurd h0 hne

/-- With any other residue no descriptor is output (R191). -/
theorem complete_rejects {w : Work} (hne : crc16 (frameBytes w.st) ≠ 0) :
    (complete w).resp.fev = .doneFail ∧ (complete w).resp.descValid = w.resp.descValid := by
  rcases complete_cases w with ⟨h0, -⟩ | ⟨-, h⟩
  · exact absurd h0 hne
  · rw [h]
    exact ⟨rfl, rfl⟩

/-- A whole tail after frame open completes a frame of the header and the tail, with the size and the latch of its opening
(R164, R166, R167). -/
theorem feedBits_tagOpen_completes (p : Build) (off off' : Word64) {w : Work} {tail : List Byte}
    (hlen : 8 ≤ (lengthField w.st.acc).toNat) (htail : tail.length = (lengthField w.st.acc).toNat) :
    ∃ v, feedBits p off' (recordBits tail) (tagOpen off w) = complete v ∧
      frameBytes v.st = headerOf w.st.acc ++ tail ∧ Collected (tagOpen off w) (headerOf w.st.acc ++ tail) v := by
  have hmax := (lengthField w.st.acc).isLt
  have hheader : (headerOf w.st.acc).length = 8 := rfl
  have hne : tail ≠ [] := List.ne_nil_of_length_pos (by omega)
  have hcollected : Collected (tagOpen off w) (headerOf w.st.acc ++ tail) (tail.foldl byteTaken (tagOpen off w)) :=
    (collected_tagOpen off).append_bytes tail (by simp only [maxFrame]; omega)
  have hsize : (tagOpen off w).st.blen.toNat = (headerOf w.st.acc ++ tail).length := by
    rw [toNat_tagOpen_blen, List.length_append, hheader, htail]
  exact ⟨_, feedBits_recordBits_completes p off' tail rfl hne (htail ▸ toNat_tagOpen_rem off hlen),
    hcollected.frameBytes_eq hsize, hcollected⟩

end Sys2Proof.Machine
end

section
/-!
PROOFS. The statements about memory and streams (20_memory.md): the command on the input, the bytes of a sample, and the
bytes of a frame, each from the facts above.
-/

namespace Sys2Proof.Machine

/-- Settles O44: the tag-completing bit opens the frame, and the tail is collected behind its header and completes it
(`feedBits_tagOpen_completes`); the residue then decides between the two outcomes. -/
theorem frameRoundTrip : Obligations.FrameRoundTrip := by
  intro p w b off off' tail hf a htag hlen htail record w'
  have hopen : framerBit p b off w = tagOpen off (shifted b w) := framerBit_opens p b off hf htag hlen
  obtain ⟨v, hv, (hrecord : frameBytes v.st = record), hcollected⟩ :=
    feedBits_tagOpen_completes p off off' (w := shifted b w) (tail := tail) hlen htail
  have hw' : w' = complete v := (congrArg (feedBits p off' (recordBits tail)) hopen).trans hv
  have hsize : v.st.blen = BitVec.ofNat 5 (frameBytes v.st).length := by
    rw [frameBytes_length, BitVec.ofNat_toNat, BitVec.setWidth_eq]
  rw [hw', complete_st, complete_crc, ← hrecord]
  refine ⟨rfl, rfl, rfl, fun h0 => ?_, fun hne => ?_⟩
  · obtain ⟨hfev, hvalid, hdescLen, hdata, hblock, hoff⟩ := complete_accepts h0
    exact ⟨hfev, hvalid, hdescLen.trans hsize, hdata, hblock.trans hcollected.tsBlock,
      hoff.trans hcollected.tsOff⟩
  · obtain ⟨hfev, hvalid⟩ := complete_rejects hne
    exact ⟨hfev, hvalid.trans hcollected.descValid⟩

/-- The step on an offered command beat. -/
theorem step_command {s : State} {b : Beat} {rest : List HostInput} (h : s.pending = .command b :: rest) :
    step s = exec (decode b) { s with pending := rest } := by
  simp only [step, takeInput, h]

/-- Settles O4: a step decodes the oldest beat, and decoding an encoded command gives it back (`decode_encode`). -/
theorem stepRunsTheDecodedCommand : Obligations.StepRunsTheDecodedCommand := by
  intro s rest
  refine ⟨fun b h => step_command h, fun i h => ?_⟩
  rw [step_command h, decode_encode]

/-- Two bytes make one sample, and a last byte alone makes none (R53). -/
theorem pcm16le_length : ∀ bytes : List Byte, (pcm16le bytes).length = bytes.length / 2
  | [] => rfl
  | [_] => by simp [pcm16le]
  | _ :: _ :: rest => by
    simp only [pcm16le, List.length_cons, pcm16le_length rest]
    omega

/-- Sample `k` is made of bytes `2k` and `2k+1`, the low byte first (R53). -/
theorem pcm16le_getElem? : ∀ (bytes : List Byte) (k : Nat) (h : 2 * k + 1 < bytes.length),
    (pcm16le bytes)[k]? = some (bytes[2 * k + 1] ++ bytes[2 * k] : BitVec (8 + 8))
  | [], _, h => absurd h (Nat.not_lt_zero _)
  | [_], k, h => by simp at h
  | _ :: _ :: _, 0, _ => rfl
  | _ :: _ :: rest, k + 1, h => pcm16le_getElem? rest k (Nat.lt_of_add_lt_add_right (n := 2) h)

/-- Settles O52, by induction on the buffer, two bytes at a time. -/
theorem pcmBytesLowByteFirst : Obligations.PcmBytesLowByteFirst :=
  fun bytes => ⟨pcm16le_length bytes, pcm16le_getElem? bytes⟩

end Sys2Proof.Machine
end

section
/-!
PROOFS. Command beats (30_encoding.md R71 to R75): a beat is its two fields put together, so encoding a decoded beat gives
it back, and an SMP beat acts through its low sixteen bits only.
-/

namespace Sys2Proof.Machine

/-- A beat is its `op` above its payload (R71). -/
theorem beatOp_append_beatPayload (b : Beat) : (beatOp b ++ beatPayload b : BitVec (2 + 64)) = b :=
  (BitVec.extractLsb'_append_extractLsb'_eq_extractLsb' (x := b) rfl).trans BitVec.extractLsb'_eq_self

/-- An SMP payload is its ignored bits above its sample (R72). -/
theorem payloadIgnored_append_payloadSample (v : Word64) :
    (payloadIgnored v ++ payloadSample v : BitVec (48 + 16)) = v :=
  (BitVec.extractLsb'_append_extractLsb'_eq_extractLsb' (x := v) rfl).trans BitVec.extractLsb'_eq_self

/-- The four codes of `op` (R71). -/
theorem op_cases (o : BitVec 2) : o = 0b00#2 ∨ o = 0b01#2 ∨ o = 0b10#2 ∨ o = 0b11#2 := by
  revert o
  decide

/-- A beat decodes to a command with its own two fields (R72 to R74). -/
theorem fields_decode (b : Beat) : (decode b).op = beatOp b ∧ (decode b).payload = beatPayload b := by
  unfold decode
  rcases op_cases (beatOp b) with h | h | h | h <;> rw [h]
  · exact ⟨rfl, payloadIgnored_append_payloadSample (beatPayload b)⟩
  · exact ⟨rfl, rfl⟩
  · exact ⟨rfl, rfl⟩
  · exact ⟨rfl, rfl⟩

theorem encode_decode (b : Beat) : encode (decode b) = b := by
  obtain ⟨hop, hpayload⟩ := fields_decode b
  rw [encode, hop, hpayload]
  exact beatOp_append_beatPayload b

/-- A beat with `op = 00` spells the SMP of its low sixteen bits (R72). -/
theorem decode_of_op_smp {b : Beat} (h : b.extractLsb 65 64 = 0b00#2) :
    decode b = .smp (b.extractLsb 15 0) (payloadIgnored (beatPayload b)) := by
  have hsample : payloadSample (beatPayload b) = b.extractLsb 15 0 := by
    ext i hi
    simp [payloadSample, beatPayload, BitVec.extractLsb]
  rw [decode, beatOp, if_pos h, hsample]

end Sys2Proof.Machine
end

section
/-!
PROOFS. The response beat (30_encoding.md R80, R85 to R87): every field stands above the widths of the fields before it.
-/

namespace Sys2Proof.Machine

open Sys2Proof.Spec

/-! Fields put together. -/

/-- A field of a beat: its width and its bits. -/
abbrev BeatField := (w : Nat) × BitVec w

/-- The fields `l` put together from bit 0 upward, with `top` above them all. -/
def putTogether (top : BeatField) : List BeatField → BeatField
  | [] => top
  | f :: l => ⟨(putTogether top l).1 + f.1, (putTogether top l).2 ++ f.2⟩

/-- How many bits the fields `l` take. -/
def totalWidth : List BeatField → Nat
  | [] => 0
  | f :: l => totalWidth l + f.1

/-- A field stands above the widths of the fields before it. -/
theorem extractLsb'_putTogether (top : BeatField) {l : List BeatField} {j w : Nat} {f : BitVec w}
    (h : l[j]? = some ⟨w, f⟩) : (putTogether top l).2.extractLsb' (totalWidth (l.take j)) w = f := by
  induction l generalizing j with
  | nil => simp at h
  | cons g l ih =>
    cases j with
    | zero =>
      cases h
      exact BitVec.extractLsb'_append_eq_right
    | succ j =>
      rw [putTogether, List.take_succ_cons, totalWidth, BitVec.extractLsb'_append_eq_of_le (Nat.le_add_left _ _),
        Nat.add_sub_cancel]
      exact ih h

/-- The uppermost field stands above all the others. -/
theorem extractLsb'_putTogether_top (top : BeatField) (l : List BeatField) :
    (putTogether top l).2.extractLsb' (totalWidth l) top.1 = top.2 := by
  induction l with
  | nil => exact BitVec.extractLsb'_eq_self
  | cons g l ih =>
    rw [putTogether, totalWidth, BitVec.extractLsb'_append_eq_of_le (Nat.le_add_left _ _), Nat.add_sub_cancel]
    exact ih

/-! The fields of the response beat. -/

/-- The fields of a response beat below the uppermost one, in the order of R80. -/
def responseFields (r : Response) : List BeatField :=
  [⟨2, r.op⟩, ⟨1, BitVec.ofBool r.ill⟩, ⟨64, r.idx⟩, ⟨3, syncEventCode r.sev⟩, ⟨1, BitVec.ofBool r.bitValid⟩,
    ⟨1, BitVec.ofBool r.bit⟩, ⟨1, BitVec.ofBool r.disc⟩, ⟨3, framerEventCode r.fev⟩, ⟨16, r.crc⟩,
    ⟨1, BitVec.ofBool r.descValid⟩, ⟨5, r.descLen⟩, ⟨184, r.descData⟩, ⟨64, r.tsBlock⟩, ⟨64, r.tsOff⟩,
    ⟨2, phaseCode r.phase⟩]

/-- The response beat is its fields put together (R80). -/
theorem packResponse_eq (r : Response) :
    packResponse r = (putTogether ⟨1, framePhaseCode r.fphase⟩ (responseFields r)).2 := rfl

/-- A field of a response stands above the widths of the fields before it (R80). -/
theorem packResponse_field (r : Response) (j : Nat) {start w : Nat} {f : BitVec w}
    (h : (responseFields r)[j]? = some ⟨w, f⟩) (hstart : totalWidth ((responseFields r).take j) = start) :
    (packResponse r).extractLsb' start w = f := by
  rw [← hstart, packResponse_eq]
  exact extractLsb'_putTogether _ h

theorem packResponse_fphase (r : Response) : (packResponse r).extractLsb' 412 1 = framePhaseCode r.fphase := by
  have hstart : totalWidth (responseFields r) = 412 := rfl
  rw [← hstart, packResponse_eq]
  exact extractLsb'_putTogether_top ⟨1, framePhaseCode r.fphase⟩ (responseFields r)

theorem syncEventCode_mem_sevTable (e : SyncEvent) : (e, syncEventCode e) ∈ sevTable := by
  cases e <;> decide

theorem framerEventCode_mem_fevTable (e : FramerEvent) : (e, framerEventCode e) ∈ fevTable := by
  cases e <;> decide

theorem phaseCode_mem_phaseTable (f : Phase) : (f, phaseCode f) ∈ phaseTable := by
  cases f <;> decide

theorem framePhaseCode_mem_fphaseTable (f : FramePhase) : (f, framePhaseCode f) ∈ fphaseTable := by
  cases f <;> decide

/-- The code `11` is no phase's (R85). -/
theorem phaseCode_ne_three (f : Phase) : phaseCode f ≠ 0b11#2 := by
  cases f <;> decide

end Sys2Proof.Machine
end

section
/-!
PROOFS. What a response can be (30_encoding.md R80, R81, R88): its `op`, index and phases, and which events and fields
each action of the framer and of the synchronizer leaves on it.
-/

namespace Sys2Proof.Machine

/-! Both phases on the response. -/

/-- Every command ends by closing its step. -/
theorem performFor_eq_closeStep (p : Build) (i : Instr) (s : State) : ∃ w, performFor p i s = closeStep w := by
  cases i with
  | smp x g =>
    obtain ⟨v, -, h⟩ := smpFor_action p x s
    exact ⟨_, h⟩
  | blk t | rsv2 a | rsv3 a => exact ⟨_, rfl⟩

/-- A command's response carries both phases after it (R80). -/
theorem performFor_out_phases {p : Build} {i : Instr} {s : State} {r : Response} (h : (performFor p i s).out = some r) :
    r.phase = (performFor p i s).phase ∧ r.fphase = (performFor p i s).fphase := by
  obtain ⟨w, hw⟩ := performFor_eq_closeStep p i s
  rw [hw] at h ⊢
  cases h
  exact ⟨rfl, rfl⟩

/-! Legal responses. -/

/-- Legality does not look at the phases. -/
theorem LegalResponse.with_phases {r : Response} (h : LegalResponse r) (phase : Phase) (fphase : FramePhase) :
    LegalResponse { r with phase := phase, fphase := fphase } := by
  obtain ⟨⟨hbit, hdisc, hquiet, hother, hillegal⟩, ⟨hill, hvalid, hvalue, hflag, hcrc, hdesc, hzero⟩⟩ := h
  exact ⟨⟨hbit, hdisc, hquiet, hother, hillegal⟩, ⟨hill, hvalid, hvalue, hflag, hcrc, hdesc, hzero⟩⟩

/-- A response with no event but an event of the synchronizer that calls no framer. -/
theorem legalResponse_sync {e : SyncEvent} (hbit : e ≠ .bit) (hlost : e ≠ .lost) (idx : Word64) :
    LegalResponse { Response.zero with idx := idx, sev := e } :=
  ⟨by constructor <;> simp [Response.zero, FramerEvent.ofBit, hbit, hlost],
    by constructor <;> simp [Response.zero, hbit, hlost]⟩

/-- The response of LOST. -/
theorem legalResponse_lost (idx : Word64) :
    LegalResponse { Response.zero with idx := idx, sev := .lost, disc := true, fev := .disc } :=
  ⟨by constructor <;> simp [Response.zero, FramerEvent.ofBit], by constructor <;> simp [Response.zero]⟩

/-- The response of a command that is no SMP: no event, and `ill` for the reserved codes. -/
theorem legalResponse_other {op : BitVec 2} {ill : Bool} (hill : ill = true ↔ op = 0b10#2 ∨ op = 0b11#2)
    (idx : Word64) : LegalResponse { Response.zero with op := op, ill := ill, idx := idx } :=
  ⟨by constructor <;> simp [Response.zero, FramerEvent.ofBit],
    by constructor <;> simp [Response.zero, hill]⟩

/-- What every response of a BIT carries, whatever the framer does with the bit (R141, R143). -/
structure BitReply (r : Response) : Prop where
  op : r.op = 0b00#2
  ill : r.ill = false
  sev : r.sev = .bit
  bitValid : r.bitValid = true
  disc : r.disc = false

/-- What the framer's action on a bit leaves on a response: an event of a bit, a residue only where a frame completes, and
a descriptor exactly where it is accepted (R160 to R167). -/
structure FramerReply (r : Response) : Prop where
  event : r.fev.ofBit = true
  crc : r.fev ≠ .doneOk → r.fev ≠ .doneFail → r.crc = 0
  descValid : r.descValid = true ↔ r.fev = .doneOk
  desc : r.descValid = false → r.descLen = 0 ∧ r.descData = 0 ∧ r.tsBlock = 0 ∧ r.tsOff = 0

theorem legalResponse_bit {r : Response} (hb : BitReply r) (hf : FramerReply r) : LegalResponse r := by
  obtain ⟨hop, hill, hsev, hvalid, hflag⟩ := hb
  obtain ⟨hevent, hcrc, hdescValid, hdesc⟩ := hf
  have hsome : r.fev ≠ .none := fun h => by simp [h, FramerEvent.ofBit] at hevent
  have hnoDisc : r.fev ≠ .disc := fun h => by simp [h, FramerEvent.ofBit] at hevent
  have hevents : LegalEvents r := by constructor <;> simp [hop, hill, hsev, hevent, hsome, hnoDisc]
  exact ⟨hevents, by simp [hill, hop], by simp [hvalid, hsev], by simp [hvalid], by simp [hflag, hsev], hcrc,
    hdescValid, hdesc⟩

/-- A response on which the framer has not acted: no residue and no descriptor (R81). -/
structure NoDescriptor (r : Response) : Prop where
  crc : r.crc = 0
  descValid : r.descValid = false
  desc : r.descLen = 0 ∧ r.descData = 0 ∧ r.tsBlock = 0 ∧ r.tsOff = 0

/-- A bit that completes no frame raises its event and leaves the residue and the descriptor zero. -/
theorem NoDescriptor.framerReply_raised {r : Response} (h : NoDescriptor r) {e : FramerEvent} (hbit : e.ofBit = true)
    (hne : e ≠ .doneOk) : FramerReply { r with fev := e } :=
  ⟨hbit, fun _ _ => h.crc, by simp [h.descValid, hne], fun _ => h.desc⟩

theorem complete_framerReply {w : Work} (h : NoDescriptor w.resp) : FramerReply (complete w).resp := by
  rcases complete_cases w with ⟨-, hc⟩ | ⟨-, hc⟩ <;> rw [hc]
  · exact ⟨rfl, fun hne => absurd rfl hne, iff_of_true rfl rfl, fun hno => by cases hno⟩
  · exact ⟨rfl, fun _ hne => absurd rfl hne, by simp [h.descValid], fun _ => h.desc⟩

theorem FramerAction.framerReply {b : Bool} {off : Word64} {w v : Work} (h : FramerAction b off w v)
    (hw : NoDescriptor w.resp) : FramerReply v.resp := by
  cases h with
  | shift | reject | opened | count | append => exact hw.framerReply_raised rfl (by decide)
  | last => exact complete_framerReply (w := appended (shifted b w)) hw

theorem complete_bitReply {w : Work} (h : BitReply w.resp) : BitReply (complete w).resp := by
  rcases complete_cases w with ⟨-, hc⟩ | ⟨-, hc⟩ <;> rw [hc] <;> exact ⟨h.op, h.ill, h.sev, h.bitValid, h.disc⟩

theorem FramerAction.bitReply {b : Bool} {off : Word64} {w v : Work} (h : FramerAction b off w v)
    (hw : BitReply w.resp) : BitReply v.resp := by
  cases h with
  | shift | reject | opened | count | append => exact ⟨hw.op, hw.ill, hw.sev, hw.bitValid, hw.disc⟩
  | last => exact complete_bitReply (w := appended (shifted b w)) hw

/-- The response of a BIT, with ANY new period and prediction. -/
theorem framerBit_withClock_legalResponse (p : Build) (b : Bool) (off : Word64) (d next : Binary64) (bit : Bool)
    (s : State) : LegalResponse (framerBit p b off (withClock d next bit (openStep 0b00#2 s))).resp :=
  have h := framerBit_action p b off (withClock d next bit (openStep 0b00#2 s))
  legalResponse_bit (h.bitReply ⟨rfl, rfl, rfl, rfl, rfl⟩) (h.framerReply ⟨rfl, rfl, rfl, rfl, rfl, rfl⟩)

theorem SmpAction.legalResponse {p : Build} {x : Sample} {s : State} {v : Work} (h : SmpAction p x s v) :
    LegalResponse v.resp := by
  cases h with
  | quiet | seed | half | correct | acquire | acqFail =>
    exact legalResponse_sync (by decide) (by decide) s.inSampleCount
  | bit =>
    rw [bitWork_eq_withClock]
    exact framerBit_withClock_legalResponse p _ _ _ _ _ s
  | lost => exact legalResponse_lost s.inSampleCount

theorem performFor_legalResponse {p : Build} {i : Instr} {s : State} {r : Response}
    (h : (performFor p i s).out = some r) : LegalResponse r := by
  cases i with
  | smp x g =>
    obtain ⟨v, hv, hsmp⟩ := smpFor_action p x s
    rw [performFor, hsmp] at h
    cases h
    exact hv.legalResponse.with_phases _ _
  | blk t =>
    cases h
    exact (legalResponse_other (op := 0b01#2) (ill := false) (by decide) s.inSampleCount).with_phases _ _
  | rsv2 a =>
    cases h
    exact (legalResponse_other (op := 0b10#2) (ill := true) (by decide) s.inSampleCount).with_phases _ _
  | rsv3 a =>
    cases h
    exact (legalResponse_other (op := 0b11#2) (ill := true) (by decide) s.inSampleCount).with_phases _ _

end Sys2Proof.Machine
end

section
/-!
PROOFS. A descriptor (30_encoding.md R82, 45_descriptor_output.md R200): it is the frame in the buffer, byte `i` in lane
`i`, and the lanes above the frame are 0.
-/

namespace Sys2Proof.Machine

/-! Lanes of a byte record. -/

theorem descLanes_cons (b : Byte) (bytes : List Byte) :
    descLanes (b :: bytes) = (descLanes bytes <<< 8) ||| b.setWidth 184 := rfl

/-- Every lane from the record's length on is 0 (R82). -/
theorem descLanes_toNat_lt (bytes : List Byte) : (descLanes bytes).toNat < 2 ^ (8 * bytes.length) := by
  induction bytes with
  | nil => decide
  | cons b bytes ih =>
    have hb := b.isLt
    have hlanes : (descLanes bytes <<< 8).toNat < 2 ^ (8 * (bytes.length + 1)) := by
      rw [BitVec.toNat_shiftLeft, Nat.shiftLeft_eq]
      refine (Nat.mod_le _ _).trans_lt ?_
      rw [mul_add, pow_add]
      exact Nat.mul_lt_mul_of_pos_right ih (by decide)
    have hbyte : (b.setWidth 184).toNat < 2 ^ (8 * (bytes.length + 1)) := by
      rw [BitVec.toNat_setWidth, Nat.mod_eq_of_lt (hb.trans (by decide))]
      exact hb.trans_le (Nat.pow_le_pow_right (by decide) (by omega))
    rw [descLanes_cons, List.length_cons, BitVec.toNat_or]
    exact Nat.or_lt_two_pow hlanes hbyte

/-- Lane `i` holds byte `i` (R82). -/
theorem extractLsb'_descLanes (bytes : List Byte) (i : Nat) (h : i < bytes.length) (hi : i < maxFrame) :
    (descLanes bytes).extractLsb' (8 * i) 8 = bytes[i] := by
  induction bytes generalizing i with
  | nil => exact absurd h (Nat.not_lt_zero i)
  | cons b bytes ih =>
    rw [descLanes_cons]
    cases i with
    | zero =>
      ext k hk
      have hwidth : k < 184 := by omega
      simp [hk, hwidth]
    | succ i =>
      rw [List.getElem_cons_succ, ← ih i (Nat.lt_of_succ_lt_succ h) (Nat.lt_of_succ_lt hi)]
      simp only [maxFrame] at hi
      ext k hk
      have hbit : 8 * (i + 1) + k = 8 * i + k + 8 := by omega
      have hwidth : 8 * i + k + 8 < 184 := by omega
      simp [hbit, hwidth, BitVec.getLsbD_eq_getElem (show 8 * i + k < 184 by omega)]

/-! The descriptor of a sample. -/

/-- The descriptor on the response of a work: the frame in its buffer, at the size it was opened with (R200). -/
structure CarriesFrame (v : Work) : Prop where
  sizes : 16 ≤ v.resp.descLen.toNat ∧ v.resp.descLen.toNat ≤ maxFrame
  data : v.resp.descData = descLanes (bytesBelow v.st.buf v.resp.descLen.toNat)

/-- An accepted frame is the one in the buffer, whose bytes stay when it is freed (R167, 20_memory.md R51). -/
theorem complete_carriesFrame {w : Work} (hsizes : 16 ≤ w.st.blen.toNat ∧ w.st.blen.toNat ≤ maxFrame)
    (hno : w.resp.descValid = false) (hd : (complete w).resp.descValid = true) : CarriesFrame (complete w) := by
  rcases complete_cases w with ⟨-, h⟩ | ⟨hne, -⟩
  · rw [h]
    exact ⟨hsizes, rfl⟩
  · rw [(complete_rejects hne).2, hno] at hd
    cases hd

theorem FramerAction.carriesFrame {b : Bool} {off : Word64} {w v : Work} (h : FramerAction b off w v)
    (hw : FrameInv w.st) (hno : w.resp.descValid = false) (hd : v.resp.descValid = true) : CarriesFrame v := by
  cases h with
  | shift | reject | opened | count | append => exact absurd (hd.symm.trans hno) (by decide)
  | last hf => exact complete_carriesFrame (w := appended (shifted b w)) (hw.sizes hf) hno hd

theorem withClock_frameInv (d next : Binary64) (bit : Bool) {w : Work} (h : FrameInv w.st) :
    FrameInv (withClock d next bit w).st := h.of_eq rfl rfl rfl rfl

/-- Only a BIT puts a descriptor on the response. -/
theorem SmpAction.carriesFrame {p : Build} {x : Sample} {s : State} {v : Work} (h : SmpAction p x s v)
    (hs : FrameInv s) (hd : v.resp.descValid = true) : CarriesFrame v := by
  cases h with
  | quiet | seed | half | correct | acquire | acqFail | lost => cases hd
  | bit =>
    rw [bitWork_eq_withClock] at hd ⊢
    exact (framerBit_action p _ _ _).carriesFrame (withClock_frameInv _ _ _ (w := openStep 0b00#2 s) hs) rfl hd

/-- Byte `i` of the frame stands in lane `i` (R82). -/
theorem CarriesFrame.lane {v : Work} (h : CarriesFrame v) (i : Nat) (hi : i < maxFrame)
    (hlen : i < v.resp.descLen.toNat) : v.resp.descData.extractLsb' (8 * i) 8 = v.st.buf[i] := by
  rw [h.data, extractLsb'_descLanes _ i (by simpa [bytesBelow] using hlen) hi]
  simp [bytesBelow, loadByte_inside v.st.buf i hi]

theorem CarriesFrame.toNat_lt {v : Work} (h : CarriesFrame v) :
    v.resp.descData.toNat < 2 ^ (8 * v.resp.descLen.toNat) := by
  have hlt := descLanes_toNat_lt (bytesBelow v.st.buf v.resp.descLen.toNat)
  rw [← h.data] at hlt
  simpa [bytesBelow] using hlt

end Sys2Proof.Machine
end

section
/-!
PROOFS. The synthetic Manchester modulator (30_encoding.md R93): its length is the least index whose half-bit index has
passed all bits, so every sample falls into a bit of the string.
-/

namespace Sys2Proof.Machine

section
variable (p : Build)

/-- `N` samples are enough for `n` bits exactly where `N` periods of a sample reach `n` bit times (R93). -/
theorem manchLength_le_iff (n k : Nat) : manchLength p n ≤ k ↔ n * p.params.fs ≤ k * p.params.dataRate := by
  obtain ⟨-, hrate, -⟩ := legal_facts p
  rw [manchLength, ← Nat.ceilDiv_eq_add_pred_div, ceilDiv_le_iff_le_mul hrate, mul_comm k]

/-- The half-bit index reaches `2 * n` exactly where the samples reach `n` bit times (R93). -/
theorem two_mul_le_manchHalf_iff (n k : Nat) : 2 * n ≤ manchHalf p k ↔ n * p.params.fs ≤ k * p.params.dataRate := by
  obtain ⟨hfs, -⟩ := legal_facts p
  rw [manchHalf, Nat.le_div_iff_mul_le hfs, mul_assoc, mul_assoc, Nat.mul_le_mul_left_iff two_pos]

/-- `N` is the least `k` with `h(k) >= 2n` (R93). -/
theorem manchLength_le_iff_manchHalf (n k : Nat) : manchLength p n ≤ k ↔ 2 * n ≤ manchHalf p k :=
  (manchLength_le_iff p n k).trans (two_mul_le_manchHalf_iff p n k).symm

theorem manch_length (a : Nat) (bits : List Bool) : (manch p a bits).length = manchLength p bits.length := by
  simp [manch]

theorem manch_getElem? (a : Nat) (bits : List Bool) {k : Nat} (h : k < manchLength p bits.length) :
    (manch p a bits)[k]? = some (manchSample p a bits k) := by
  simp [manch, h]

end

/-- A sample inside bit `b` has `+a` where `b` is 1 in the first half or 0 in the second, else `-a` (R93). -/
theorem manchSample_eq {p : Build} (a : Nat) {bits : List Bool} {k : Nat} {b : Bool}
    (h : bits[manchHalf p k / 2]? = some b) :
    manchSample p a bits k =
      BitVec.ofInt 16 (if (b = true ↔ manchHalf p k % 2 = 0) then (a : Int) else -(a : Int)) := by
  have hbit : bits.getD (manchHalf p k / 2) false = b := by rw [List.getD_eq_getElem?_getD, h, Option.getD_some]
  have hfirst : b = decide (manchHalf p k % 2 = 0) ↔ (b = true ↔ manchHalf p k % 2 = 0) := by
    cases b <;> simp
  simp only [manchSample, hbit, hfirst, apply_ite (BitVec.ofInt 16)]

end Sys2Proof.Machine
end

section
/-!
PROOFS. The statements about the encodings of commands and responses (30_encoding.md), each from the facts above.
-/

namespace Sys2Proof.Machine

/-- Settles O1: both directions, `decode_encode` and `encode_decode`. -/
theorem decodeAndEncodeAgree : Obligations.DecodeAndEncodeAgree := ⟨decode_encode, encode_decode⟩

/-- Settles O27: the response's `op` and index, both phases, and the host's input, each from its lemma. -/
theorem everyCommandIsAnswered : Obligations.EveryCommandIsAnswered := by
  intro i s
  obtain ⟨r, hr, hop, hidx⟩ := performFor_out standardBuild i s
  obtain ⟨hphase, hfphase⟩ := performFor_out_phases hr
  exact ⟨_, r, exec_eq_performFor i s, hr, hop, hidx, hphase, hfphase, performFor_pending standardBuild i s⟩

/-- Settles O28, by the action of the command (`performFor_legalResponse`). -/
theorem responsesAreLegal : Obligations.ResponsesAreLegal := fun _ _ _ _ => performFor_legalResponse

/-- Settles O31: a descriptor is the frame in the buffer (`SmpAction.carriesFrame`), packed lane by lane. -/
theorem descriptorLanes : Obligations.DescriptorLanes := by
  intro s t x g r hs ht hr hd
  obtain ⟨v, hv, h⟩ := smpFor_action standardBuild x s
  rw [exec_smp, h] at ht
  cases ht
  cases hr
  have hframe : CarriesFrame v := hv.carriesFrame hs hd
  exact ⟨hframe.sizes.1, hframe.sizes.2, hframe.lane, hframe.toNat_lt⟩

/-- Settles O53: the least index with `h(k) >= 2n` (`manchLength_le_iff_manchHalf`), and below it each sample's bit. -/
theorem manchesterModulator : Obligations.ManchesterModulator := by
  intro p a bits
  refine ⟨manch_length p a bits, (manchLength_le_iff_manchHalf p _ _).mp le_rfl, fun k hk => ?_⟩
  have hhalf : manchHalf p k < 2 * bits.length :=
    not_le.mp fun h => hk.not_ge ((manchLength_le_iff_manchHalf p _ _).mpr h)
  have hindex : manchHalf p k / 2 < bits.length := by omega
  have hbit : bits[manchHalf p k / 2]? = some bits[manchHalf p k / 2] := List.getElem?_eq_getElem hindex
  exact ⟨hhalf, _, hbit, (manch_getElem? p a bits hk).trans (congrArg some (manchSample_eq a hbit))⟩

/-- Settles O2: the decoder evaluates to each command of the table, and encoding a decoded beat gives it back. -/
theorem exampleBeatsDecode : Obligations.ExampleBeatsDecode := by
  intro c hc
  have hdecode : decode c.1 = c.2 := by
    revert c
    decide
  exact ⟨hdecode, hdecode ▸ encode_decode c.1⟩

/-- Settles O3: both beats spell an SMP of the same sample, and the meaning of SMP discards the ignored bits. -/
theorem ignoredSampleBitsHaveNoEffect : Obligations.IgnoredSampleBitsHaveNoEffect := by
  intro s b c rest hb hc hsample
  rw [step_command (b := b) rfl, step_command (b := c) rfl, decode_of_op_smp hb, decode_of_op_smp hc, exec_smp,
    exec_smp, hsample]

/-- Settles O30: each field stands where R80 puts it (`packResponse_field`), and the codes are those of the tables. -/
theorem responseBeatFields : Obligations.ResponseBeatFields := by
  intro r
  have hsev : (packResponse r).extractLsb' 67 3 = syncEventCode r.sev := packResponse_field r 3 rfl rfl
  have hfev : (packResponse r).extractLsb' 73 3 = framerEventCode r.fev := packResponse_field r 7 rfl rfl
  have hphase : (packResponse r).extractLsb' 410 2 = phaseCode r.phase := packResponse_field r 14 rfl rfl
  rw [hsev, hfev, hphase, packResponse_fphase r]
  exact ⟨packResponse_field r 0 rfl rfl, packResponse_field r 1 rfl rfl, packResponse_field r 2 rfl rfl,
    syncEventCode_mem_sevTable r.sev, packResponse_field r 4 rfl rfl, packResponse_field r 5 rfl rfl,
    packResponse_field r 6 rfl rfl, framerEventCode_mem_fevTable r.fev, packResponse_field r 8 rfl rfl,
    packResponse_field r 9 rfl rfl, packResponse_field r 10 rfl rfl, packResponse_field r 11 rfl rfl,
    packResponse_field r 12 rfl rfl, packResponse_field r 13 rfl rfl, phaseCode_mem_phaseTable r.phase,
    framePhaseCode_mem_fphaseTable r.fphase, phaseCode_ne_three r.phase⟩

end Sys2Proof.Machine
end

section
/-!
PROOFS. The block has no readable location (20_memory.md R57; notes, entry 7): every operation of a step commutes with
replacing what stands on the output port, so a command does the same whatever the step before left there.
-/

namespace Sys2Proof.Machine

/-- The work with another response left on the port by the step before. -/
def withPort (o : Option Response) (w : Work) : Work :=
  { w with st := { w.st with out := o } }

/-- Opening a step does not look at the port. -/
theorem openStep_out (op : BitVec 2) (s : State) (o : Option Response) :
    openStep op { s with out := o } = withPort o (openStep op s) := rfl

/-- Closing a step overwrites the port. -/
@[simp] theorem closeStep_withPort (o : Option Response) (w : Work) : closeStep (withPort o w) = closeStep w := rfl

section
variable (p : Build) (o : Option Response)

/-! The framer. -/

theorem complete_withPort (w : Work) : complete (withPort o w) = withPort o (complete w) := by
  have hbytes : frameBytes (withPort o w).st = frameBytes w.st := rfl
  simp only [complete, hbytes]
  split_ifs <;> rfl

theorem consumeTail_withPort (w : Work) : consumeTail (withPort o w) = withPort o (consumeTail w) := by
  by_cases hbyte : (w.st.rem - 1).toNat % 8 = 0
  · by_cases hlast : w.st.rem - 1 = 0
    · have hone : w.st.rem = 1 := sub_eq_zero.mp hlast
      rw [consumeTail_last w hone]
      exact (consumeTail_last (withPort o w) hone).trans (complete_withPort o (appended w))
    · rw [consumeTail_append w rfl hbyte hlast]
      exact consumeTail_append (withPort o w) rfl hbyte hlast
  · rw [consumeTail_count w rfl hbyte]
    exact consumeTail_count (withPort o w) rfl hbyte

theorem awaitTag_withPort (off : Word64) (w : Work) :
    awaitTag p off (withPort o w) = withPort o (awaitTag p off w) := by
  unfold awaitTag
  rw [apply_ite (withPort o), apply_ite (withPort o)]
  rfl

theorem framerBit_withPort (b : Bool) (off : Word64) (w : Work) :
    framerBit p b off (withPort o w) = withPort o (framerBit p b off w) := by
  cases hf : w.st.fphase with
  | awaitTag =>
    rw [framerBit_awaitTag p b off w hf, framerBit_awaitTag p b off (withPort o w) hf]
    exact awaitTag_withPort p o off (shifted b w)
  | consumeTail =>
    rw [framerBit_consumeTail p b off w hf, framerBit_consumeTail p b off (withPort o w) hf]
    exact consumeTail_withPort o (shifted b w)

/-! The synchronizer. -/

theorem firstTransitionStep_withPort (i : Word64) (w : Work) :
    firstTransitionStep p i (withPort o w) = withPort o (firstTransitionStep p i w) := by
  rcases firstTransitionStep_cases p i w with ⟨hm, h⟩ | ⟨hm, hl, h⟩ | ⟨hm, hl, hc, h⟩ | ⟨hm, hl, hc, h⟩ <;> rw [h]
  · exact firstTransitionStep_half p i (withPort o w) hm
  · exact firstTransitionStep_correct p i (withPort o w) hm hl
  · exact firstTransitionStep_acquire p i (withPort o w) hm hl hc
  · exact firstTransitionStep_acqFail p i (withPort o w) hm hl hc

theorem bitCentre_withPort (e : Binary64) (off : Word64) (x : Sample) (w : Work) :
    bitCentre p e off x (withPort o w) = withPort o (bitCentre p e off x w) := by
  rw [bitCentre_eq, bitCentre_eq, bitWork_eq_withClock, bitWork_eq_withClock]
  exact framerBit_withPort p o (decodedBit x) off (withClock _ _ _ w)

theorem synchronisedStep_withPort (i off : Word64) (x : Sample) (w : Work) :
    synchronisedStep p i off x (withPort o w) = withPort o (synchronisedStep p i off x w) := by
  rcases synchronisedStep_cases p i off x w with ⟨hm, h⟩ | ⟨hm, hc, h⟩ | ⟨hm, hc, h⟩ <;> rw [h]
  · exact synchronisedStep_half p i off x (withPort o w) hm
  · exact (synchronisedStep_bit p i off x (withPort o w) hm hc).trans (bitCentre_withPort p o _ off x w)
  · exact synchronisedStep_lost p i off x (withPort o w) hm hc

theorem syncStep_withPort (i off : Word64) (x : Sample) (w : Work) :
    syncStep p i off x (withPort o w) = withPort o (syncStep p i off x w) := by
  cases hp : w.st.phase with
  | unsynchronised =>
    rw [syncStep_unsynchronised p i off x w hp]
    exact syncStep_unsynchronised p i off x (withPort o w) hp
  | firstTransition =>
    rw [syncStep_firstTransition p i off x w hp, syncStep_firstTransition p i off x (withPort o w) hp]
    exact firstTransitionStep_withPort p o i w
  | synchronised =>
    rw [syncStep_synchronised p i off x w hp, syncStep_synchronised p i off x (withPort o w) hp]
    exact synchronisedStep_withPort p o i off x w

/-! The commands. -/

theorem processSample_withPort (x : Sample) (w : Work) :
    processSample p x (withPort o w) = withPort o (processSample p x w) := by
  cases h : transition w.st.lastSample x with
  | false =>
    rw [processSample_quiet p x w h]
    exact processSample_quiet p x (withPort o w) h
  | true =>
    rw [processSample_transition p x w h, processSample_transition p x (withPort o w) h]
    exact congrArg (sampleTaken x) (syncStep_withPort p o _ _ x w)

/-- No command depends on the response that the command before it left on the port. -/
theorem performFor_out_irrelevant (i : Instr) (s : State) : performFor p i { s with out := o } = performFor p i s := by
  cases i with
  | smp x g =>
    simp only [performFor, smpFor]
    rw [openStep_out, processSample_withPort, closeStep_withPort]
  | blk t => rfl
  | rsv2 v => rfl
  | rsv3 v => rfl

end

end Sys2Proof.Machine
end

section
/-!
PROOFS. The statements about the commands (40_commands.md): BLK, the reserved codes, and SMP without a transition, each
from what its meaning leaves in the state and on the port.
-/

namespace Sys2Proof.Machine

open Sys2Proof.Spec

/-- What BLK leaves (R101). -/
theorem blkFor_eq (t : Word64) (s : State) :
    blkFor t s = { s with blockTs := t, blockOffset := 0, out := some (answer 0b01#2 s) } := rfl

/-- What a reserved command leaves, for either code (R102). -/
theorem reservedFor_eq (op : BitVec 2) (s : State) :
    reservedFor op s = { s with out := some { answer op s with ill := true } } := rfl

/-- What a sample without a transition leaves (R100). -/
theorem closeStep_sampleTaken_openStep (x : Sample) (s : State) :
    closeStep (sampleTaken x (openStep 0b00#2 s)) = sampled x (answer 0b00#2 s) s := rfl

/-- A sample's sign class is the sign of its value (R120). -/
theorem neg_eq_decide (x : Sample) : neg x = decide (x.toInt < 0) := BitVec.msb_eq_toInt

/-- The transition test finds exactly the sign changes (R121). -/
theorem transition_iff_signChange (p x : Sample) : transition p x = true ↔ SignChange p x := by
  rw [transition, neg_eq_decide, neg_eq_decide, SignChange, bne_iff_ne, ne_eq, decide_eq_decide]

/-- Settles O11: a reserved command changes the port alone, which no command reads (`performFor_out_irrelevant`). -/
theorem reservedCommandsAreTransparent : Obligations.ReservedCommandsAreTransparent := by
  intro v s t i h
  have hport : ∃ o, t = { s with out := o } := by
    rcases h with h | h
    · rw [exec_rsv2, reservedFor_eq] at h
      cases h
      exact ⟨_, rfl⟩
    · rw [exec_rsv3, reservedFor_eq] at h
      cases h
      exact ⟨_, rfl⟩
  obtain ⟨o, rfl⟩ := hport
  rw [exec_eq_performFor, exec_eq_performFor, performFor_out_irrelevant]

/-- Settles O8: `blkFor_eq`. -/
theorem blkWritesOnlyTheBlockFields : Obligations.BlkWritesOnlyTheBlockFields :=
  fun t s => congrArg Host.Outcome.next (blkFor_eq t s)

/-- A BLK overwrites all that a BLK before it wrote, and answers from what that one kept (R57, R101). -/
theorem blkFor_blkFor (a b : Word64) (s : State) : blkFor b (blkFor a s) = blkFor b s := by
  rw [blkFor_eq b (blkFor a s), blkFor_eq a s, blkFor_eq b s]
  rfl

/-- Settles O9: `blkFor_blkFor`, once with each timestamp. -/
theorem laterBlkReplacesEarlier : Obligations.LaterBlkReplacesEarlier := by
  intro a b s u h
  rw [exec_blk] at h
  cases h
  simp only [exec_blk, blkFor_blkFor, and_self]

/-- Settles O10: `reservedFor_eq` for each of the two codes. -/
theorem reservedCommandsReportIll : Obligations.ReservedCommandsReportIll :=
  fun _ s =>
    ⟨congrArg Host.Outcome.next (reservedFor_eq 0b10#2 s), congrArg Host.Outcome.next (reservedFor_eq 0b11#2 s)⟩

/-- Settles O13: without a sign change the transition test fails, and the synchronizer is not called. -/
theorem sampleWithoutTransition : Obligations.SampleWithoutTransition := by
  intro s x g h
  have hquiet : transition s.lastSample x = false :=
    Bool.eq_false_iff.mpr fun ht => h ((transition_iff_signChange _ _).mp ht)
  rw [exec_smp, smpFor_quiet standardBuild x s hquiet, closeStep_sampleTaken_openStep]

end Sys2Proof.Machine
end

section
/-!
PROOFS. The transition detector (41_transition_detector.md R120, R121) and, for every legal build, what the synchronizer
leaves after any SMP (42_bit_clock_sync.md R130 to R143): its event, phase, period and prediction.
-/

namespace Sys2Proof.Machine

open Sys2Proof.Spec

/-! The model's sign test, windows (R132) and new period (R141) are those of the statements. -/

theorem neg_iff (x : Sample) : neg x = true ↔ x.toInt < 0 := by
  rw [neg_eq_decide, decide_eq_true_iff]

/-- Without a sign change the transition test fails (R121). -/
theorem transition_eq_false {p x : Sample} (h : ¬SignChange p x) : transition p x = false :=
  Bool.eq_false_iff.mpr (mt (transition_iff_signChange p x).mp h)

section
variable {p : Build} {s : State}

theorem midWindow_iff : midWindow p (halfPeriod s) (timingError s s.inSampleCount) = true ↔ Mid p.params.eps s := Iff.rfl

theorem lateWindow_iff : lateWindow p (halfPeriod s) (timingError s s.inSampleCount) = true ↔ Late p.params.eps s :=
  Iff.rfl

theorem centreWindow_iff : centreWindow p (timingError s s.inSampleCount) = true ↔ Cen p.params.eps s := Iff.rfl

theorem midWindow_eq_false (h : ¬Mid p.params.eps s) :
    midWindow p (halfPeriod s) (timingError s s.inSampleCount) = false :=
  Bool.eq_false_iff.mpr (mt midWindow_iff.mp h)

theorem lateWindow_eq_false (h : ¬Late p.params.eps s) :
    lateWindow p (halfPeriod s) (timingError s s.inSampleCount) = false :=
  Bool.eq_false_iff.mpr (mt lateWindow_iff.mp h)

theorem centreWindow_eq_false (h : ¬Cen p.params.eps s) : centreWindow p (timingError s s.inSampleCount) = false :=
  Bool.eq_false_iff.mpr (mt centreWindow_iff.mp h)

theorem nudgedPeriod_eq_newPeriod : nudgedPeriod p s.d (timingError s s.inSampleCount) = newPeriod p.params.damp s := rfl

end

/-! The decoded bit on the response. -/

@[simp] theorem complete_bit (w : Work) : (complete w).resp.bit = w.resp.bit := by
  rcases complete_cases w with ⟨-, h⟩ | ⟨-, h⟩ <;> rw [h] <;> rfl

/-- No action of the framer writes the decoded bit of the response (R143). -/
theorem FramerAction.bit_eq {b : Bool} {off : Word64} {w v : Work} (h : FramerAction b off w v) :
    v.resp.bit = w.resp.bit := by
  cases h with
  | shift | reject | opened | count | append => rfl
  | last => exact complete_bit _

/-! What an SMP leaves in the synchronizer's fields. -/

/-- The state `t` and its response `r` have this synchronizer event, phase, period and prediction. -/
def ClockAfter (r : Response) (t : State) (e : SyncEvent) (phase : Phase) (d next : Binary64) : Prop :=
  r.sev = e ∧ t.phase = phase ∧ t.d = d ∧ t.next = next

section
variable {p : Build} {x : Sample} {s : State} {r : Response} (hr : (smpFor p x s).out = some r)
include hr

/-- An SMP leaves in the synchronizer's fields what its action left there: the history and the counters come after. -/
theorem clockAfter_of_action {v : Work} (h : smpFor p x s = closeStep (sampleTaken x v)) :
    ClockAfter r (smpFor p x s) v.resp.sev v.st.phase v.st.d v.st.next ∧ r.bit = v.resp.bit := by
  rw [h] at hr ⊢
  cases hr
  exact ⟨⟨rfl, rfl, rfl, rfl⟩, rfl⟩

/-- Without a sign change the synchronizer is not called (R100). -/
theorem clockAfter_quiet (h : ¬SignChange s.lastSample x) : ClockAfter r (smpFor p x s) .none s.phase s.d s.next :=
  (clockAfter_of_action hr (smpFor_quiet p x s (transition_eq_false h))).1

/-- The framer, which acts last on a BIT, leaves the synchronizer's fields and the decoded bit alone, whatever period
and prediction the BIT wrote. -/
theorem clockAfter_framerBit {b bit : Bool} {off : Word64} {d next : Binary64}
    (h : smpFor p x s = closeStep (sampleTaken x (framerBit p b off (withClock d next bit (openStep 0b00#2 s))))) :
    ClockAfter r (smpFor p x s) .bit s.phase d next ∧ r.bit = bit := by
  obtain ⟨⟨hsev, hphase, hd, hnext⟩, hbit⟩ := clockAfter_of_action hr h
  have hact := framerBit_action p b off (withClock d next bit (openStep 0b00#2 s))
  have hkeep := hact.keepsClock
  exact ⟨⟨hsev.trans (framerBit_sev ..), hphase.trans hkeep.phase, hd.trans hkeep.d, hnext.trans hkeep.next⟩,
    hbit.trans hact.bit_eq⟩

section
variable (ht : transition s.lastSample x = true)
include ht

/-- SEED, from the nominal period (R133). -/
theorem clockAfter_seed (hp : s.phase = .unsynchronised) :
    ClockAfter r (smpFor p x s) .seed .firstTransition (nominalPeriod p) (Fp.add (index s) (nominalPeriod p)) :=
  (clockAfter_of_action hr (smpFor_seed p x s ht hp)).1

/-- HALF, ignored in either phase (R135, R140). -/
theorem clockAfter_half (hp : s.phase ≠ .unsynchronised) (hm : Mid p.params.eps s) :
    ClockAfter r (smpFor p x s) .half s.phase s.d s.next := by
  have h : smpFor p x s = closeStep (sampleTaken x (halfBit (openStep 0b00#2 s))) := by
    cases hphase : s.phase with
    | unsynchronised => exact absurd hphase hp
    | firstTransition => exact smpFor_firstHalf p x s ht hphase (midWindow_iff.mpr hm)
    | synchronised => exact smpFor_half p x s ht hphase (midWindow_iff.mpr hm)
  exact (clockAfter_of_action hr h).1

/-- CORRECT, half a period back (R136). -/
theorem clockAfter_correct (hp : s.phase = .firstTransition) (hm : ¬Mid p.params.eps s) (hl : Late p.params.eps s) :
    ClockAfter r (smpFor p x s) .correct s.phase s.d (Fp.sub s.next (half s)) :=
  (clockAfter_of_action hr (smpFor_correct p x s ht hp (midWindow_eq_false hm) (lateWindow_iff.mpr hl))).1

/-- ACQUIRE, with the period as it is (R137). -/
theorem clockAfter_acquire (hp : s.phase = .firstTransition) (hm : ¬Mid p.params.eps s) (hl : ¬Late p.params.eps s)
    (hc : Cen p.params.eps s) : ClockAfter r (smpFor p x s) .acquire .synchronised s.d (Fp.add s.next s.d) :=
  (clockAfter_of_action hr
    (smpFor_acquire p x s ht hp (midWindow_eq_false hm) (lateWindow_eq_false hl) (centreWindow_iff.mpr hc))).1

/-- ACQFAIL, which writes the phase alone (R138). -/
theorem clockAfter_acqFail (hp : s.phase = .firstTransition) (hm : ¬Mid p.params.eps s) (hl : ¬Late p.params.eps s)
    (hc : ¬Cen p.params.eps s) : ClockAfter r (smpFor p x s) .acqFail .unsynchronised s.d s.next :=
  (clockAfter_of_action hr
    (smpFor_acqFail p x s ht hp (midWindow_eq_false hm) (lateWindow_eq_false hl) (centreWindow_eq_false hc))).1

/-- LOST, whose discontinuity writes none of the synchronizer's fields (R142). -/
theorem clockAfter_lost (hp : s.phase = .synchronised) (hm : ¬Mid p.params.eps s) (hc : ¬Cen p.params.eps s) :
    ClockAfter r (smpFor p x s) .lost .unsynchronised s.d s.next :=
  (clockAfter_of_action hr (smpFor_lost p x s ht hp (midWindow_eq_false hm) (centreWindow_eq_false hc))).1

/-- BIT, with the new period in the period and in the prediction (R141, R143). -/
theorem clockAfter_bit (hp : s.phase = .synchronised) (hm : ¬Mid p.params.eps s) (hc : Cen p.params.eps s) :
    ClockAfter r (smpFor p x s) .bit s.phase (newPeriod p.params.damp s) (Fp.add s.next (newPeriod p.params.damp s)) ∧
      r.bit = decodedBit x := by
  have hsmp := smpFor_bit p x s ht hp (midWindow_eq_false hm) (centreWindow_iff.mpr hc)
  rw [bitWork_eq_withClock, openStep_st, nudgedPeriod_eq_newPeriod] at hsmp
  exact clockAfter_framerBit hr hsmp

end
end

/-! The obligations. -/

/-- Settles O26: one `clockAfter` lemma for each row of the dispatch. -/
theorem synchronizerOfEveryBuild : Obligations.SynchronizerOfEveryBuild := by
  intro p s x g t d₀
  obtain ⟨r, hr, -⟩ := performFor_out p (.smp x g) s
  refine ⟨r, hr, clockAfter_quiet hr, fun hchange => ?_⟩
  have ht := (transition_iff_signChange _ _).mpr hchange
  refine ⟨clockAfter_seed hr ht, fun hp => ?first, fun hp => ?sync⟩
  case first =>
    exact ⟨clockAfter_half hr ht (by simp [hp]), clockAfter_correct hr ht hp, clockAfter_acquire hr ht hp,
      clockAfter_acqFail hr ht hp⟩
  case sync =>
    refine ⟨clockAfter_half hr ht (by simp [hp]), fun hm hc => ?_, clockAfter_lost hr ht hp⟩
    obtain ⟨⟨hsev, hclock⟩, hbit⟩ := clockAfter_bit hr ht hp hm hc
    exact ⟨hsev, hbit.trans (neg_eq_decide x), hclock⟩

/-- Settles O12: the sign class is bit 15, which two's complement makes the sign of the value. -/
theorem transitionIsASignChange : Obligations.TransitionIsASignChange := fun p x =>
  ⟨neg_iff x, BitVec.msb_eq_getLsbD_last x, rfl, transition_iff_signChange p x⟩

end Sys2Proof.Machine
end

section
/-!
PROOFS. A build whose half period is within `EPS` (42_bit_clock_sync.md R148): the half-bit window and the late window
together cover the centre window, so no transition in FIRST_TRANSITION acquires.
-/

namespace Sys2Proof.Fp

/-! Values that carry no minus sign. -/

/-- A value without a minus sign: a NaN, or a positive zero, number or infinity. -/
def Value.unsigned : Value → Bool
  | .nan => true
  | .inf n => !n
  | .fin n _ => !n

theorem unsigned_signed_false {bits : Nat} (h : bits ≤ infBits) : (unpack (signed false bits)).unsigned = true := by
  rcases h.lt_or_eq with h | rfl
  · rw [unpack_signed false h]
    rfl
  · rw [unpack_signed_inf]
    rfl

theorem unsigned_ofInt_natCast (k : Nat) : (unpack (ofInt k)).unsigned = true := by
  unfold ofInt
  rw [decide_eq_false (by omega)]
  exact unsigned_signed_false (roundRatio_le_infBits _ _)

/-- A quotient that is no NaN has the sign of both operands together. -/
theorem divValue_unsigned {u v : Value} (hu : u.unsigned = true) (hv : v.unsigned = true) :
    divValue u v = none ∨ ∃ bits ≤ infBits, divValue u v = some (signed false bits) := by
  have hround := roundRatio_le_infBits
  cases u with
  | nan => exact .inl rfl
  | inf n =>
    obtain rfl : n = false := by simpa [Value.unsigned] using hu
    cases v with
    | nan | inf m => exact .inl rfl
    | fin m y =>
      obtain rfl : m = false := by simpa [Value.unsigned] using hv
      exact .inr ⟨infBits, le_rfl, rfl⟩
  | fin n x =>
    obtain rfl : n = false := by simpa [Value.unsigned] using hu
    cases v with
    | nan => exact .inl rfl
    | inf m =>
      obtain rfl : m = false := by simpa [Value.unsigned] using hv
      exact .inr ⟨0, Nat.zero_le _, rfl⟩
    | fin m y =>
      obtain rfl : m = false := by simpa [Value.unsigned] using hv
      rw [divValue]
      split
      · split
        · exact .inl rfl
        · exact .inr ⟨infBits, le_rfl, rfl⟩
      · exact .inr ⟨_, hround _ _, rfl⟩

theorem unsigned_div {a b : Binary64} (ha : (unpack a).unsigned = true) (hb : (unpack b).unsigned = true) :
    (unpack (div a b)).unsigned = true := by
  unfold div
  rcases divValue_unsigned ha hb with h | ⟨bits, hbits, h⟩ <;> rw [h]
  · rw [Option.getD_none, unpack_quietNan]
    rfl
  · exact unsigned_signed_false hbits

theorem key_nonneg_of_unsigned {a : Binary64} {v : Int} (ha : (unpack a).unsigned = true)
    (hv : (unpack a).key = some v) : 0 ≤ v := by
  cases h : unpack a <;> simp_all [Value.unsigned, Value.key, units] <;> omega

/-! Rounding and windows. -/

theorem roundedUnits_neg (v : Int) : roundedUnits (-v) = -roundedUnits v := by
  rcases lt_trichotomy v 0 with h | rfl | h
  · simp [roundedUnits, units, h, h.le]
  · simp
  · simp [roundedUnits, units, h, h.le]

/-- Rounding does not leave a window whose bound is representable. -/
theorem abs_roundedUnits_le {v bound : Int} (hbound : roundedUnits bound = bound) (h : |v| ≤ bound) :
    |roundedUnits v| ≤ bound := by
  obtain ⟨hlo, hhi⟩ := abs_le.mp h
  have hlo := roundedUnits_mono hlo
  have hhi := roundedUnits_mono hhi
  rw [roundedUnits_neg, hbound] at hlo
  exact abs_le.mpr ⟨hlo, hhi.trans hbound.le⟩

/-- A window on a finite value, in units. -/
theorem le_fabs_iff {a w : Binary64} {v bound : Int} (ha : (unpack a).key = some v)
    (hw : (unpack w).key = some bound) : le (fabs a) w = true ↔ |v| ≤ bound :=
  le_iff_of_key (by rw [key_fabs, ha, Option.map_some]) hw

/-- A value inside a window stays inside it when another positive value inside it is added or taken off, whichever
goes towards 0. -/
theorem fabs_add_le_or_fabs_sub_le {e h w : Binary64} (hw : isFinite w = true) (he : le (fabs e) w = true)
    (hh : (unpack h).unsigned = true) (hhw : le h w = true) :
    le (fabs (add e h)) w = true ∨ le (fabs (sub e h)) w = true := by
  obtain ⟨n, x, hx⟩ := exists_fin_of_fabs_le hw he
  obtain ⟨m, y, hy⟩ := isFinite_iff.mp hw
  have hbound := roundedUnits_of_fin hy
  obtain ⟨v, b, hv, hb, hvb⟩ := le_iff.mp hhw
  obtain rfl : b = units m y := by rw [key_of_fin hy, Option.some.injEq] at hb; exact hb.symm
  have hv0 := key_nonneg_of_unsigned hh hv
  obtain ⟨k, z, hz, rfl⟩ :=
    exists_fin_of_key_between hv unpack_zero hy (by simpa [units] using hv0) hvb
  obtain ⟨hlo, hhi⟩ := abs_le.mp ((le_fabs_iff (key_of_fin hx) hb).mp he)
  rw [le_fabs_iff (key_add hx hz) hb, le_fabs_iff (key_sub hx hz) hb]
  rcases le_total (units n x) 0 with hneg | hpos
  · exact .inl (abs_roundedUnits_le hbound (abs_le.mpr ⟨by omega, by omega⟩))
  · exact .inr (abs_roundedUnits_le hbound (abs_le.mpr ⟨by omega, by omega⟩))

end Sys2Proof.Fp

namespace Sys2Proof.Machine

open Sys2Proof.Spec

theorem unsigned_nominalPeriod (p : Build) : (Fp.unpack (nominalPeriod p)).unsigned = true :=
  Fp.unsigned_div (Fp.unsigned_ofInt_natCast _) (Fp.unsigned_ofInt_natCast _)

/-- With half a period within `EPS`, a transition at the prediction is a half-bit or late (R132, R148). -/
theorem mid_or_late_of_cen {p : Build} {s : State} (hd : s.d = nominalPeriod p)
    (hover : Fp.le (Fp.div (nominalPeriod p) Fp.two) p.params.eps = true) (hc : Cen p.params.eps s) :
    Mid p.params.eps s ∨ Late p.params.eps s := by
  obtain ⟨-, -, heps, -⟩ := legal_facts p
  have htwo : (Fp.unpack Fp.two).unsigned = true := by rw [Fp.unpack_two]; rfl
  have hhalf : half s = Fp.div (nominalPeriod p) Fp.two := congrArg (Fp.div · Fp.two) hd
  rw [Mid, Late, hhalf]
  exact Fp.fabs_add_le_or_fabs_sub_le heps hc (Fp.unsigned_div (unsigned_nominalPeriod p) htwo) hover

/-- The state is not locked, waits for a second transition with the nominal period only, and has no bit on the port. -/
def Unlocked (p : Build) (s : State) : Prop :=
  s.phase ≠ .synchronised ∧ (s.phase = .firstTransition → s.d = nominalPeriod p) ∧
    ∀ r, s.out = some r → r.sev ≠ .bit ∧ r.bitValid = false

section
variable {p : Build}

/-- An unlocked state has its response, its phase and its period to show for it. -/
theorem unlocked_of_clockAfter {t : State} {r : Response} {e : SyncEvent} {phase : Phase} {d next : Binary64}
    (hr : t.out = some r) (hlegal : LegalResponse r) (h : ClockAfter r t e phase d next) (he : e ≠ .bit)
    (hphase : phase ≠ .synchronised) (hd : phase = .firstTransition → d = nominalPeriod p) : Unlocked p t := by
  obtain ⟨rfl, rfl, rfl, -⟩ := h
  refine ⟨hphase, hd, fun r' hr' => ?_⟩
  obtain rfl : r = r' := Option.some.inj (hr.symm.trans hr')
  exact ⟨he, Bool.eq_false_iff.mpr (mt hlegal.fields.bitValid.mp he)⟩

variable (hover : Fp.le (Fp.div (nominalPeriod p) Fp.two) p.params.eps = true)
include hover

/-- No sample locks an unlocked state: a transition seeds, or in FIRST_TRANSITION it is anything but an ACQUIRE. -/
theorem smpFor_unlocked (x : Sample) {s : State} (hs : Unlocked p s) : Unlocked p (smpFor p x s) := by
  obtain ⟨hphase, hperiod, -⟩ := hs
  obtain ⟨r, hr, -⟩ := performFor_out p (.smp x 0) s
  have unlocked {e phase d next} := unlocked_of_clockAfter (p := p) (e := e) (phase := phase) (d := d) (next := next)
    hr (performFor_legalResponse hr)
  by_cases hchange : SignChange s.lastSample x
  case neg => exact unlocked (clockAfter_quiet hr hchange) (by decide) hphase hperiod
  have ht := (transition_iff_signChange _ _).mpr hchange
  cases hp : s.phase with
  | unsynchronised => exact unlocked (clockAfter_seed hr ht hp) (by decide) (by decide) fun _ => rfl
  | synchronised => exact absurd hp hphase
  | firstTransition =>
    by_cases hm : Mid p.params.eps s
    · exact unlocked (clockAfter_half hr ht (by simp [hp]) hm) (by decide) hphase hperiod
    by_cases hl : Late p.params.eps s
    · exact unlocked (clockAfter_correct hr ht hp hm hl) (by decide) hphase hperiod
    have hc : ¬Cen p.params.eps s := fun hc => (mid_or_late_of_cen (hperiod hp) hover hc).elim hm hl
    exact unlocked (clockAfter_acqFail hr ht hp hm hl hc) (by decide) (by decide) nofun

theorem performFor_unlocked (i : Instr) {s : State} (hs : Unlocked p s) : Unlocked p (performFor p i s) := by
  cases i with
  | smp x g => exact smpFor_unlocked hover x hs
  | blk t | rsv2 a | rsv3 a =>
    obtain ⟨hphase, hperiod, -⟩ := hs
    refine ⟨hphase, hperiod, fun r hr => ?_⟩
    cases hr
    exact ⟨nofun, rfl⟩

omit hover in
/-- A state that waits for a first transition, with nothing on the output. -/
theorem unlocked_of_unsynchronised {s : State} (hp : s.phase = .unsynchronised) (ho : s.out = none) : Unlocked p s := by
  simp [Unlocked, hp, ho]

theorem stepFor_unlocked {s : State} (hs : Unlocked p s) : Unlocked p (stepFor p s) := by
  unfold stepFor
  rcases takeInput_cases s with ⟨-, h⟩ | ⟨input, rest, -, h⟩ <;> rw [h]
  · obtain ⟨hphase, hperiod, -⟩ := hs
    exact ⟨hphase, hperiod, fun _ hr => by simp at hr⟩
  · cases input with
    | command beat => exact performFor_unlocked hover _ hs
    | reset => exact unlocked_of_unsynchronised (resetStep_phase p _) (resetStep_out p _)

end

/-- Settles O40: a state that waits for a second transition has the nominal period, and there the windows that come
first cover the centre window (`mid_or_late_of_cen`). -/
theorem overlappingWindowsNeverAcquire : Obligations.OverlappingWindowsNeverAcquire :=
  fun _ hover => ⟨unlocked_of_unsynchronised rfl rfl, fun _ hs => stepFor_unlocked hover hs⟩

end Sys2Proof.Machine
end

section
/-!
PROOFS. Samples of one sign (42_bit_clock_sync.md R147): each leaves the synchronizer and the framer as they are, and so
does any list of them.
-/

namespace Sys2Proof.Machine

open Sys2Proof.Spec

theorem KeepsClock.trans {s t u : State} (h : KeepsClock s t) (h' : KeepsClock t u) : KeepsClock s u where
  phase := h'.phase.trans h.phase
  d := h'.d.trans h.d
  next := h'.next.trans h.next

theorem KeepsFrame.trans {s t u : State} (h : KeepsFrame s t) (h' : KeepsFrame t u) : KeepsFrame s u where
  fphase := h'.fphase.trans h.fphase
  buf := h'.buf.trans h.buf
  blen := h'.blen.trans h.blen
  wcur := h'.wcur.trans h.wcur
  rem := h'.rem.trans h.rem
  frameTsBlock := h'.frameTsBlock.trans h.frameTsBlock
  frameTsOff := h'.frameTsOff.trans h.frameTsOff

/-- The synchronizer and the framer are as they were, and `n` samples were counted (R147). -/
structure OnlyCounts (n : Nat) (s t : State) : Prop where
  clock : KeepsClock s t
  acc : t.acc = s.acc
  frame : KeepsFrame s t
  count : t.inSampleCount = s.inSampleCount + BitVec.ofNat 64 n

theorem OnlyCounts.succ {n : Nat} {s t u : State} (h : OnlyCounts 1 s t) (h' : OnlyCounts n t u) :
    OnlyCounts (n + 1) s u where
  clock := h.clock.trans h'.clock
  acc := h'.acc.trans h.acc
  frame := h.frame.trans h'.frame
  count := by rw [h'.count, h.count, BitVec.ofNat_add, add_assoc, add_comm (BitVec.ofNat 64 n)]

/-- A sample without a sign change does no more than to be counted (R100, R145). -/
theorem smpFor_onlyCounts (p : Build) {x : Sample} {s : State} (h : ¬SignChange s.lastSample x) :
    OnlyCounts 1 s (smpFor p x s) := by
  rw [smpFor_quiet p x s (transition_eq_false h), closeStep_sampleTaken_openStep]
  exact ⟨⟨rfl, rfl, rfl⟩, rfl, ⟨rfl, rfl, rfl, rfl, rfl, rfl, rfl⟩, rfl⟩

/-- By induction on the list: after each sample the last one has the sign of all that follow. -/
theorem performAll_onlyCounts (p : Build) (xs : List Sample) (s : State)
    (h : ∀ x ∈ xs, (x.toInt < 0 ↔ s.lastSample.toInt < 0)) :
    OnlyCounts xs.length s (performAll p (xs.map smpOf) s) := by
  induction xs generalizing s with
  | nil => exact ⟨⟨rfl, rfl, rfl⟩, rfl, ⟨rfl, rfl, rfl, rfl, rfl, rfl, rfl⟩, (add_zero _).symm⟩
  | cons x xs ih =>
    obtain ⟨hx, hxs⟩ := List.forall_mem_cons.mp h
    obtain ⟨hlast, -⟩ := smpFor_history p x s
    have hrest := ih (smpFor p x s) fun y hy => by rw [hlast, hx, hxs y hy]
    exact (smpFor_onlyCounts p fun hchange => hchange hx.symm).succ hrest

/-- Settles O34: `performAll_onlyCounts`, field by field. -/
theorem constantLevelChangesNothing : Obligations.ConstantLevelChangesNothing := by
  intro p xs s h t
  obtain ⟨clock, hacc, frame, hcount⟩ := performAll_onlyCounts p xs s h
  exact ⟨clock.phase, clock.d, clock.next, hacc, frame.fphase, frame.buf, frame.blen, frame.wcur, frame.rem,
    frame.frameTsBlock, frame.frameTsOff, hcount⟩

end Sys2Proof.Machine
end

section
/-!
PROOFS. The statements about the synchronizer's actions at the defaults (42_bit_clock_sync.md R130 to R142, except BIT):
the whole state after each, from its equation.
-/

namespace Sys2Proof.Machine

open Sys2Proof.Spec

/-- The nominal period of the standard build is the statements' `period` (R133). -/
theorem nominalPeriod_standardBuild : nominalPeriod standardBuild = period := rfl

section
variable {p : Build} {x : Sample} {s : State}

/-- HALF is the same in both phases that test for it (R135, R140). -/
theorem smpFor_halfBit (ht : transition s.lastSample x = true) (hp : s.phase ≠ .unsynchronised)
    (hm : Mid p.params.eps s) : smpFor p x s = closeStep (sampleTaken x (halfBit (openStep 0b00#2 s))) := by
  cases hphase : s.phase with
  | unsynchronised => exact absurd hphase hp
  | firstTransition => exact smpFor_firstHalf p x s ht hphase (midWindow_iff.mpr hm)
  | synchronised => exact smpFor_half p x s ht hphase (midWindow_iff.mpr hm)

end

/-- Settles O14: SEED at the standard build's nominal period. -/
theorem firstTransitionSeeds : Obligations.FirstTransitionSeeds := by
  intro s x g hp hchange
  have ht := (transition_iff_signChange _ _).mpr hchange
  rw [exec_smp, smpFor_seed standardBuild x s ht hp, seed, nominalPeriod_standardBuild]
  rfl

/-- Settles O15: HALF, in either phase (`smpFor_halfBit`). -/
theorem halfBitsAreIgnored : Obligations.HalfBitsAreIgnored := by
  intro s x g hp hchange hm
  have ht := (transition_iff_signChange _ _).mpr hchange
  rw [exec_smp, smpFor_halfBit (p := standardBuild) ht hp hm]
  rfl

/-- Settles O16: CORRECT, by the first two windows. -/
theorem lateTransitionCorrects : Obligations.LateTransitionCorrects := by
  intro s x g hp hchange hm hl
  have ht := (transition_iff_signChange _ _).mpr hchange
  rw [exec_smp, smpFor_correct standardBuild x s ht hp (midWindow_eq_false hm) (lateWindow_iff.mpr hl)]
  rfl

/-- Settles O17: ACQUIRE, by all three windows. -/
theorem centreTransitionAcquires : Obligations.CentreTransitionAcquires := by
  intro s x g hp hchange hm hl hc
  have ht := (transition_iff_signChange _ _).mpr hchange
  rw [exec_smp, smpFor_acquire standardBuild x s ht hp (midWindow_eq_false hm) (lateWindow_eq_false hl)
    (centreWindow_iff.mpr hc)]
  rfl

/-- Settles O18: ACQFAIL, by all three windows. -/
theorem otherTransitionFailsAcquisition : Obligations.OtherTransitionFailsAcquisition := by
  intro s x g hp hchange hm hl hc
  have ht := (transition_iff_signChange _ _).mpr hchange
  rw [exec_smp, smpFor_acqFail standardBuild x s ht hp (midWindow_eq_false hm) (lateWindow_eq_false hl)
    (centreWindow_eq_false hc)]
  rfl

/-- Settles O19: LOST with its discontinuity, by the two windows of SYNCHRONISED. -/
theorem strayTransitionLosesSync : Obligations.StrayTransitionLosesSync := by
  intro s x g hp hchange hm hc
  have ht := (transition_iff_signChange _ _).mpr hchange
  rw [exec_smp, smpFor_lost standardBuild x s ht hp (midWindow_eq_false hm) (centreWindow_eq_false hc)]
  rfl

end Sys2Proof.Machine
end

section
/-!
PROOFS. The statements about a BIT at the defaults (42_bit_clock_sync.md R141, 43_framer.md R160 to R166): the bit
enters the accumulator, and the framer takes one action on it.
-/

namespace Sys2Proof.Machine

open Sys2Proof.Spec

/-! A bit in the words of the statements, with ANY new period, prediction, accumulator and bit: a law over these
compares no two states through the arithmetic behind them. -/

/-- The state with what a BIT writes before the framer acts. -/
def afterBit (d next : Binary64) (acc : Word64) (s : State) : State :=
  { s with d := d, next := next, acc := acc }

/-- The response of a BIT before the framer acts. -/
def answerOfBit (bit : Bool) (s : State) : Response :=
  { answer 0b00#2 s with sev := .bit, bitValid := true, bit := bit }

section
variable (x : Sample) (s : State)

theorem bitTaken_eq_afterBit :
    bitTaken x s = afterBit (newPeriod damp s) (Fp.add s.next (newPeriod damp s)) (shiftedAcc x s) s := rfl

theorem bitAnswer_eq_answerOfBit : bitAnswer x s = answerOfBit (decide (x.toInt < 0)) s := rfl

theorem decodedBit_eq_decide : decodedBit x = decide (x.toInt < 0) := neg_eq_decide x

/-- The bit enters at bit 0 (R143, R160). -/
theorem shiftIn_decodedBit : shiftIn s.acc (decodedBit x) = shiftedAcc x s := by
  rw [shiftIn, shiftedAcc, decodedBit_eq_decide]
  by_cases h : x.toInt < 0
  · simp [h]
  · simp [h]

end

/-- The work of a bit at the defaults as the framer acts on it (R141, R160). -/
def workOfBit (x : Sample) (s : State) : Work :=
  bitTakenWork s (newPeriod damp s) (Fp.add s.next (newPeriod damp s)) (shiftedAcc x s) (decide (x.toInt < 0))

section
variable {x : Sample} {s : State} (g : BitVec 48) (h : BitCentre x s)
include h

/-- A bit while a tag is awaited (R141, R161). -/
theorem exec_bit_awaitTag (hf : s.fphase = .awaitTag) :
    exec (.smp x g) s =
      .next (closeStep (sampleTaken x (awaitTag standardBuild s.blockOffset (workOfBit x s)))) := by
  have ht := (transition_iff_signChange _ _).mpr h.change
  rw [exec_smp, smpFor_bit_awaitTag standardBuild x s ht h.phase (midWindow_eq_false h.mid)
    (centreWindow_iff.mpr h.cen) hf nudgedPeriod_eq_newPeriod rfl (shiftIn_decodedBit x s), decodedBit_eq_decide]
  rfl

/-- A bit while a tail is consumed (R141, R166). -/
theorem exec_bit_consumeTail (hf : s.fphase = .consumeTail) :
    exec (.smp x g) s = .next (closeStep (sampleTaken x (consumeTail (workOfBit x s)))) := by
  have ht := (transition_iff_signChange _ _).mpr h.change
  rw [exec_smp, smpFor_bit_consumeTail standardBuild x s ht h.phase (midWindow_eq_false h.mid)
    (centreWindow_iff.mpr h.cen) hf nudgedPeriod_eq_newPeriod rfl (shiftIn_decodedBit x s), decodedBit_eq_decide]
  rfl

end

@[simp] theorem bitTakenWork_acc (s : State) (d next : Binary64) (acc : Word64) (bit : Bool) :
    (bitTakenWork s d next acc bit).st.acc = acc := rfl

/-! The tag test on an accumulator in the words of the statements (R161, R162). -/

section
variable {p : Build} {off : Word64} {w : Work} {acc : Word64} (ha : w.st.acc = acc)
include ha

theorem awaitTag_shift (htag : acc.extractLsb' 16 40 ≠ p.params.tag) : awaitTag p off w = shiftOnly w := by
  subst ha
  exact if_neg htag

variable (htag : acc.extractLsb' 16 40 = p.params.tag)
include htag

theorem awaitTag_reject (hlen : (acc.extractLsb' 56 4).toNat < 8) : awaitTag p off w = tagReject w := by
  subst ha
  exact (if_pos htag).trans (if_pos hlen)

theorem awaitTag_open (hlen : 8 ≤ (acc.extractLsb' 56 4).toNat) : awaitTag p off w = tagOpen off w := by
  subst ha
  exact (if_pos htag).trans (if_neg (Nat.not_lt.mpr hlen))

omit htag in
/-- Opening a frame (R164): it has `L + 8` bytes, eight of them here, and `8 * L` bits to come. -/
theorem tagOpen_eq (hlen : 8 ≤ (acc.extractLsb' 56 4).toNat) :
    tagOpen off w = raiseFramer .tagOpen { w with st := { w.st with
      blen := BitVec.ofNat 5 ((acc.extractLsb' 56 4).toNat + 8)
      buf := headerBytes w.st.buf acc
      wcur := 8
      rem := BitVec.ofNat 7 (8 * (acc.extractLsb' 56 4).toNat)
      frameTsBlock := w.st.blockTs
      frameTsOff := off
      fphase := .consumeTail } } := by
  subst ha
  have hfield : lengthField w.st.acc = w.st.acc.extractLsb' 56 4 := rfl
  have hbytes : 1 + (lengthField w.st.acc).toNat + 7 = (w.st.acc.extractLsb' 56 4).toNat + 8 := by rw [hfield]; omega
  have hbits : ((lengthField w.st.acc).toNat - 6 + 7 - 1) * 8 = 8 * (w.st.acc.extractLsb' 56 4).toNat := by
    rw [hfield]; omega
  simp only [tagOpen, hbytes, hbits]

end

/-! What a step leaves, by the framer's action on the bit. -/

section
variable {p : Build} {x : Sample} {s : State} {d next : Binary64} {acc : Word64} {bit : Bool} {off : Word64}

/-- SHIFT (R165). -/
theorem closeStep_awaitTag_shift (htag : acc.extractLsb' 16 40 ≠ p.params.tag) :
    closeStep (sampleTaken x (awaitTag p off (bitTakenWork s d next acc bit))) =
      sampled x { answerOfBit bit s with fev := .shift } (afterBit d next acc s) := by
  rw [awaitTag_shift (bitTakenWork_acc s d next acc bit) htag]
  rfl

variable (htag : acc.extractLsb' 16 40 = p.params.tag)
include htag

/-- TAG_REJECT (R163). -/
theorem closeStep_awaitTag_reject (hlen : (acc.extractLsb' 56 4).toNat < 8) :
    closeStep (sampleTaken x (awaitTag p off (bitTakenWork s d next acc bit))) =
      sampled x { answerOfBit bit s with fev := .tagReject } (afterBit d next acc s) := by
  rw [awaitTag_reject (bitTakenWork_acc s d next acc bit) htag hlen]
  rfl

/-- TAG_OPEN (R164). -/
theorem closeStep_awaitTag_open (hlen : 8 ≤ (acc.extractLsb' 56 4).toNat) :
    closeStep (sampleTaken x (awaitTag p off (bitTakenWork s d next acc bit))) =
      sampled x { answerOfBit bit s with fev := .tagOpen, fphase := .consumeTail }
        { afterBit d next acc s with
          fphase := .consumeTail
          blen := BitVec.ofNat 5 ((acc.extractLsb' 56 4).toNat + 8)
          buf := headerBytes s.buf acc
          wcur := 8
          rem := BitVec.ofNat 7 (8 * (acc.extractLsb' 56 4).toNat)
          frameTsBlock := s.blockTs
          frameTsOff := off } := by
  have hacc := bitTakenWork_acc s d next acc bit
  rw [awaitTag_open hacc htag hlen, tagOpen_eq hacc hlen]
  rfl

end

/-- Settles O20: SHIFT. -/
theorem bitWithoutTagIsShiftedIn : Obligations.BitWithoutTagIsShiftedIn := by
  intro s x g h hf htag
  rw [exec_bit_awaitTag g h hf, workOfBit, closeStep_awaitTag_shift (p := standardBuild) htag, bitTaken_eq_afterBit,
    bitAnswer_eq_answerOfBit]

/-- Settles O21: TAG_REJECT. -/
theorem shortTagIsRejected : Obligations.ShortTagIsRejected := by
  intro s x g h hf htag hlen
  rw [exec_bit_awaitTag g h hf, workOfBit, closeStep_awaitTag_reject (p := standardBuild) htag hlen,
    bitTaken_eq_afterBit, bitAnswer_eq_answerOfBit]

/-- Settles O22: TAG_OPEN, with the accumulator's bytes at the head of the buffer (`headerBytes_getElem`). -/
theorem tagOpensFrame : Obligations.TagOpensFrame := by
  intro s x g h hf htag hlen
  refine ⟨headerBytes s.buf (shiftedAcc x s), headerBytes_getElem s.buf (shiftedAcc x s), ?_⟩
  rw [exec_bit_awaitTag g h hf, workOfBit, closeStep_awaitTag_open (p := standardBuild) htag hlen, bitTaken_eq_afterBit,
    bitAnswer_eq_answerOfBit]

section
variable {x : Sample} {s : State} {d next : Binary64} {acc : Word64} {bit : Bool}

/-- TAIL inside a byte (R166). -/
theorem closeStep_consumeTail_count (hbyte : (s.rem - 1).toNat % 8 ≠ 0) :
    closeStep (sampleTaken x (consumeTail (bitTakenWork s d next acc bit))) =
      sampled x { answerOfBit bit s with fev := .tail } { afterBit d next acc s with rem := s.rem - 1 } := by
  rw [consumeTail_count _ rfl hbyte]
  rfl

/-- TAIL at the end of a byte (R166). -/
theorem closeStep_consumeTail_append (hbyte : (s.rem - 1).toNat % 8 = 0) (hmore : s.rem ≠ 1) :
    closeStep (sampleTaken x (consumeTail (bitTakenWork s d next acc bit))) =
      sampled x { answerOfBit bit s with fev := .tail }
        { afterBit d next acc s with
          rem := s.rem - 1
          buf := storeByte s.buf s.wcur (acc.extractLsb 7 0)
          wcur := s.wcur + 1 } := by
  rw [consumeTail_append _ rfl hbyte (sub_ne_zero.mpr hmore)]
  rfl

end

/-- Settles O23: TAIL without an append. -/
theorem tailBitCountsDown : Obligations.TailBitCountsDown := by
  intro s x g h hf hbyte
  rw [exec_bit_consumeTail g h hf, workOfBit, closeStep_consumeTail_count hbyte, bitTaken_eq_afterBit,
    bitAnswer_eq_answerOfBit]

/-- A byte stored at a cursor inside the buffer stands there, and every other byte stays. -/
theorem storeByte_getElem (b : FrameBuffer) (cur : BitVec 5) (v : Byte) (hcur : cur.toNat < maxFrame) (i : Nat)
    (h : i < maxFrame) : (storeByte b cur v)[i] = if i = cur.toNat then v else b[i] := by
  simp only [storeByte_inside b cur v hcur, Vector.getElem_set, eq_comm]

/-- Settles O24: TAIL with an append at the cursor (`storeByte_getElem`). -/
theorem tailByteIsAppended : Obligations.TailByteIsAppended := by
  intro s x g h hf hbyte hmore hcur
  refine ⟨storeByte s.buf s.wcur ((shiftedAcc x s).extractLsb 7 0), storeByte_getElem _ _ _ hcur, ?_⟩
  rw [exec_bit_consumeTail g h hf, workOfBit, closeStep_consumeTail_append hbyte hmore, bitTaken_eq_afterBit,
    bitAnswer_eq_answerOfBit]

end Sys2Proof.Machine
end

section
/-!
PROOFS. The period nudge is bounded (42_bit_clock_sync.md R141, R150, R151): the correction rounds monotonically in the
error, and an early transition that is no half-bit comes early by less than half a period.
-/

namespace Sys2Proof.Fp

/-- A product by a factor of `y` units that is not negative, after rounding, on the scale of units. -/
def roundedProduct (v : Int) (y : Nat) : Int :=
  units (decide (v < 0)) (magnitude (roundRatio (v.natAbs * y) one1074))

theorem roundedProduct_nonneg {v : Int} (h : 0 ≤ v) (y : Nat) : 0 ≤ roundedProduct v y := by
  simp [roundedProduct, units, not_lt.mpr h]

theorem roundedProduct_nonpos {v : Int} (h : v < 0) (y : Nat) : roundedProduct v y ≤ 0 := by
  simp [roundedProduct, units, h]

theorem magnitude_roundRatio_mul_mono {x x' : Nat} (y : Nat) (h : x ≤ x') :
    magnitude (roundRatio (x * y) one1074) ≤ magnitude (roundRatio (x' * y) one1074) :=
  magnitude_strictMono.monotone (roundRatio_mono one1074_pos one1074_pos (by gcongr))

theorem roundedProduct_mono (y : Nat) : Monotone (roundedProduct · y) := by
  intro u v h
  rcases lt_or_ge u 0 with hu | hu <;> rcases lt_or_ge v 0 with hv | hv
  · have := magnitude_roundRatio_mul_mono y (show v.natAbs ≤ u.natAbs by omega)
    simpa [roundedProduct, units, hu, hv] using this
  · exact (roundedProduct_nonpos hu y).trans (roundedProduct_nonneg hv y)
  · omega
  · have := magnitude_roundRatio_mul_mono y (show u.natAbs ≤ v.natAbs by omega)
    simpa [roundedProduct, units, not_lt.mpr hu, not_lt.mpr hv] using this

section
variable {a b : Binary64} {n m : Bool} {x y : Nat}

/-- A finite product by a factor that is not negative is the exact product, rounded once. -/
theorem key_mul_of_nonneg (ha : unpack a = .fin n x) (hb : unpack b = .fin m y) (h : 0 ≤ units m y) :
    (unpack (mul a b)).key = some (roundedProduct (units n x) y) := by
  unfold mul
  rw [ha, hb, mulValue, Option.getD_some, key_signed _ (roundRatio_le_infBits _ _)]
  have hzero : m = true → y = 0 := by
    rintro rfl
    simp [units] at h
    exact h
  cases m with
  | true => simp [roundedProduct, units, hzero rfl]
  | false =>
    rcases Nat.eq_zero_or_pos x with rfl | hx
    · simp [roundedProduct, units]
    · cases n <;> simp [roundedProduct, units, hx]

/-- Half of a magnitude, rounded up to whole units, is a magnitude. -/
theorem exists_half_pattern (c : Nat) :
    ∃ c', magnitude c ≤ 2 * magnitude c' ∧ 2 * magnitude c' ≤ magnitude c + 1 := by
  obtain ⟨k, q, rfl, hq, hk⟩ := exists_pattern c
  rw [magnitude_pattern (by omega) hk]
  cases k with
  | zero =>
    refine ⟨0 * 2 ^ 52 + (q + 1) / 2, ?_⟩
    rw [magnitude_pattern (by omega) (.inl rfl)]
    omega
  | succ k =>
    refine ⟨k * 2 ^ 52 + q, ?_⟩
    rw [magnitude_pattern (by omega) (by omega), pow_succ]
    constructor <;> nlinarith

/-- Twice the half of a value exceeds it by one unit at most. -/
theorem two_mul_le_of_div_two (ha : unpack a = .fin false x) (hy : unpack (div a two) = .fin false y) :
    2 * y ≤ x + 1 := by
  obtain ⟨c, hc, rfl, -⟩ := finite_magnitude ha
  obtain ⟨c', hlo, hhi⟩ := exists_half_pattern c
  have hpos := one1074_pos
  have hround : roundRatio (magnitude c * one1074) (2 * one1074) ≤ c' := roundRatio_le (by omega) (by nlinarith)
  have hkey := key_of_fin hy
  unfold div at hkey
  rw [ha, unpack_two, divValue, if_neg (by omega), Option.getD_some, Bool.xor_self,
    key_signed _ (roundRatio_le_infBits _ _), Option.some.injEq] at hkey
  simp only [units, Bool.false_eq_true, if_false, Nat.cast_inj] at hkey
  have := magnitude_strictMono.monotone hround
  omega

/-- A value that compares between two finite ones is finite, and lies between them in units. -/
theorem exists_fin_of_le_of_le {c : Binary64} (ha : unpack a = .fin n x) (hb : unpack b = .fin m y)
    (hac : le a c = true) (hcb : le c b = true) :
    ∃ k z, unpack c = .fin k z ∧ units n x ≤ units k z ∧ units k z ≤ units m y := by
  obtain ⟨u, v, hu, hv, huv⟩ := le_iff.mp hac
  obtain ⟨v', w, hv', hw, hvw⟩ := le_iff.mp hcb
  rw [key_of_fin ha, Option.some.injEq] at hu
  rw [key_of_fin hb, Option.some.injEq] at hw
  obtain rfl : v = v' := Option.some.inj (hv.symm.trans hv')
  obtain ⟨k, z, hz, rfl⟩ := exists_fin_of_key_between hv ha hb (hu.trans_le huv) (hvw.trans hw.ge)
  exact ⟨k, z, hz, hu.trans_le huv, hvw.trans hw.ge⟩

/-- A finite value within the exact sum is within the rounded sum. -/
theorem le_add_of_le {c : Binary64} {k : Bool} {z : Nat} (hc : unpack c = .fin k z) (ha : unpack a = .fin n x)
    (hb : unpack b = .fin m y) (h : units k z ≤ units n x + units m y) : le c (add a b) = true := by
  have hround := roundedUnits_mono h
  rw [roundedUnits_of_fin hc] at hround
  exact (le_iff_of_key (key_of_fin hc) (key_add ha hb)).mpr hround

/-- A sum grows with its second operand. -/
theorem add_le_add_of_le {c : Binary64} {k : Bool} {z : Nat} (ha : unpack a = .fin n x) (hb : unpack b = .fin m y)
    (hc : unpack c = .fin k z) (h : units m y ≤ units k z) : le (add a b) (add a c) = true :=
  (le_iff_of_key (key_add ha hb) (key_add ha hc)).mpr (roundedUnits_mono (by omega))

end

end Sys2Proof.Fp

namespace Sys2Proof.Machine

open Sys2Proof.Spec

/-- The correction of a transition inside the centre window: finite, no larger than the error, of its sign, and at most
`EPS *. DAMP`, which is not negative (R141, R151). -/
theorem damped_error_bounds (p : Build) {e : Binary64} {n : Bool} {w : Nat} (he : Fp.unpack e = .fin n w)
    (hc : centreWindow p e = true) :
    ∃ m z m' z', Fp.unpack (Fp.mul e p.params.damp) = .fin m z ∧
      Fp.unpack (Fp.mul p.params.eps p.params.damp) = .fin m' z' ∧ z ≤ w ∧ (n = false → 0 ≤ Fp.units m z) ∧
      0 ≤ Fp.units m' z' ∧ Fp.units m z ≤ Fp.units m' z' := by
  obtain ⟨-, -, heps, hdamp, hdampOne⟩ := legal_facts p
  obtain ⟨k, y, hy⟩ := Fp.isFinite_iff.mp heps
  obtain ⟨m, z, hz, hzw, hsign⟩ := Fp.unpack_mul_damping he hdamp hdampOne
  obtain ⟨m', z', hz', -, -⟩ := Fp.unpack_mul_damping hy hdamp hdampOne
  obtain ⟨j, f, hf, hf0, -⟩ := Fp.exists_fin_of_le_of_le Fp.unpack_zero Fp.unpack_one hdamp hdampOne
  have hkey := (Fp.key_of_fin hz).symm.trans (Fp.key_mul_of_nonneg he hf hf0)
  have hkey' := (Fp.key_of_fin hz').symm.trans (Fp.key_mul_of_nonneg hy hf hf0)
  rw [Option.some.injEq] at hkey hkey'
  obtain ⟨hlo, hhi⟩ := abs_le.mp ((Fp.le_fabs_iff (Fp.key_of_fin he) (Fp.key_of_fin hy)).mp hc)
  refine ⟨m, z, m', z', hz, hz', hzw, hsign, ?_, ?_⟩
  · rw [hkey']
    exact Fp.roundedProduct_nonneg (by omega) f
  · rw [hkey, hkey']
    exact Fp.roundedProduct_mono f hhi

/-- A transition inside the centre window that is no half-bit and comes early comes early by less than half a period
(R139, R150). -/
theorem early_error_lt_half {p : Build} {d e : Binary64} {x w : Nat}
    (hhalf : Fp.unpack (Fp.div d Fp.two) = .fin false x) (he : Fp.unpack e = .fin true w)
    (hm : midWindow p (Fp.div d Fp.two) e = false) (hc : centreWindow p e = true) : w < x := by
  by_contra hle
  have hmid : midWindow p (Fp.div d Fp.two) e = true := Fp.fabs_add_le_of_opposite he hhalf (not_lt.mp hle) hc
  rw [hm] at hmid
  exact Bool.false_ne_true hmid

/-- Both bounds on the period that a BIT leaves (R150, R151). -/
theorem nudgedPeriod_bounds (p : Build) {d e : Binary64} (hfin : Fp.isFinite d = true)
    (hd : Fp.lt Fp.zero d = true) (hm : midWindow p (Fp.div d Fp.two) e = false) (hc : centreWindow p e = true) :
    Fp.le (Fp.div d Fp.two) (nudgedPeriod p d e) = true ∧
      Fp.le (nudgedPeriod p d e) (Fp.add d (Fp.mul p.params.eps p.params.damp)) = true := by
  obtain ⟨-, -, heps, -⟩ := legal_facts p
  obtain ⟨n, w, he⟩ := Fp.exists_fin_of_fabs_le heps hc
  obtain ⟨m, z, m', z', hz, hz', hzw, hsign, hmax, hzmax⟩ := damped_error_bounds p he hc
  obtain ⟨x, hx, hdx⟩ : ∃ x, 0 < x ∧ Fp.unpack d = .fin false x :=
    (Fp.unpack_of_lt_zero hd).resolve_left fun hinf => by simp [Fp.isFinite, hinf] at hfin
  obtain ⟨y, hy, hyx⟩ := Fp.unpack_div_two hdx
  have htwice := Fp.two_mul_le_of_div_two hdx hy
  have hcorrection : (y : Int) ≤ x + Fp.units m z := by
    cases n with
    | false =>
      have := hsign rfl
      omega
    | true =>
      have hlt := early_error_lt_half hy he hm hc
      have : -(z : Int) ≤ Fp.units m z := by cases m <;> simp [Fp.units]
      omega
  have hd' : Fp.units false x = x := rfl
  have hy' : Fp.units false y = y := rfl
  unfold nudgedPeriod
  split
  case isTrue => exact ⟨Fp.le_add_of_le hy hdx hz (by omega), Fp.add_le_add_of_le hdx hz hz' hzmax⟩
  case isFalse =>
    exact ⟨(Fp.le_iff_of_key (Fp.key_of_fin hy) (Fp.key_of_fin hdx)).mpr (by omega),
      Fp.le_add_of_le hdx hdx hz' (by omega)⟩

/-- A sample whose event is BIT comes at the prediction and no half-bit, and leaves the nudged period (R139, R141). -/
theorem nudged_of_bit {p : Build} {x : Sample} {s : State} {r : Response} (hr : (smpFor p x s).out = some r)
    (hsev : r.sev = .bit) :
    midWindow p (halfPeriod s) (timingError s s.inSampleCount) = false ∧
      centreWindow p (timingError s s.inSampleCount) = true ∧
      (smpFor p x s).d = nudgedPeriod p s.d (timingError s s.inSampleCount) := by
  obtain ⟨v, hv, h⟩ := smpFor_action p x s
  obtain ⟨⟨hvsev, -, hvd, -⟩, -⟩ := clockAfter_of_action hr h
  rw [hvsev] at hsev
  cases hv with
  | quiet | seed | half | correct | acquire | acqFail | lost => cases hsev
  | bit _ hm hc =>
    rw [bitWork_eq_withClock, (framerBit_withClock p _ _ _ _ _ (openStep _ s)).2] at hvd
    exact ⟨hm, hc, hvd⟩

/-- Settles O42: a BIT leaves the nudged period (`nudged_of_bit`), and both bounds hold (`nudgedPeriod_bounds`). -/
theorem periodNudgeIsBounded : Obligations.PeriodNudgeIsBounded := by
  intro p s x g r hfin hd hr hsev
  obtain ⟨hm, hc, hperiod⟩ := nudged_of_bit hr hsev
  rw [performFor, hperiod]
  exact nudgedPeriod_bounds p hfin hd hm hc

end Sys2Proof.Machine
end

section
/-!
PROOFS. The transition after a CORRECT (42_bit_clock_sync.md R152): with whole samples as bounds, the first error lies
from half a period on, the correction moves the prediction back, and so the next error lies beyond every window.
-/

namespace Sys2Proof.Fp

/-! Bounds in whole numbers. -/

/-- A whole number that `f64` converts exactly. -/
def ExactInt (k : Int) : Prop := ∃ n x, unpack (ofInt k) = .fin n x ∧ units n x = k * one1074

theorem exactInt_of_natAbs_le {k : Int} (h : k.natAbs ≤ 2 ^ 53) : ExactInt k := by
  refine ⟨_, _, smallIntegersConvertExactly k h, ?_⟩
  rcases lt_or_ge k 0 with hk | hk
  · simp [units, hk, abs_of_neg hk]
  · simp [units, not_lt.mpr hk, abs_of_nonneg hk]

theorem ExactInt.roundedUnits_eq {k : Int} (h : ExactInt k) : roundedUnits (k * one1074) = k * one1074 := by
  obtain ⟨n, x, hx, hk⟩ := h
  rw [← hk]
  exact roundedUnits_of_fin hx

/-- A finite value between two whole numbers. -/
def Within (lo hi : Int) (a : Binary64) : Prop :=
  ∃ n x, unpack a = .fin n x ∧ lo * one1074 ≤ units n x ∧ units n x ≤ hi * one1074

theorem ExactInt.within {k : Int} (h : ExactInt k) : Within k k (ofInt k) := by
  obtain ⟨n, x, hx, hk⟩ := h
  exact ⟨n, x, hx, hk.ge, hk.le⟩

/-- Rounding keeps exact bounds. -/
theorem within_of_key {lo hi v : Int} {a : Binary64} (hlo : ExactInt lo) (hhi : ExactInt hi)
    (hkey : (unpack a).key = some (roundedUnits v)) (h1 : lo * one1074 ≤ v) (h2 : v ≤ hi * one1074) :
    Within lo hi a := by
  have r1 := roundedUnits_mono h1
  have r2 := roundedUnits_mono h2
  rw [hlo.roundedUnits_eq] at r1
  rw [hhi.roundedUnits_eq] at r2
  obtain ⟨n, x, hx, hxlo⟩ := hlo
  obtain ⟨m, y, hy, hyhi⟩ := hhi
  obtain ⟨k, z, hz, hzv⟩ := exists_fin_of_key_between hkey hx hy (hxlo.trans_le r1) (r2.trans hyhi.ge)
  exact ⟨k, z, hz, hzv ▸ r1, hzv ▸ r2⟩

section
variable {lo hi la ha lb hb : Int} {a b : Binary64}

theorem Within.add (h : Within la ha a) (h' : Within lb hb b) (hlo : ExactInt lo) (hhi : ExactInt hi)
    (h1 : lo ≤ la + lb) (h2 : ha + hb ≤ hi) : Within lo hi (add a b) := by
  obtain ⟨n, x, hx, hxlo, hxhi⟩ := h
  obtain ⟨m, y, hy, hylo, hyhi⟩ := h'
  have h1 := mul_le_mul_of_nonneg_right h1 (Int.natCast_nonneg one1074)
  have h2 := mul_le_mul_of_nonneg_right h2 (Int.natCast_nonneg one1074)
  rw [add_mul] at h1 h2
  exact within_of_key hlo hhi (key_add hx hy) (by omega) (by omega)

theorem Within.sub (h : Within la ha a) (h' : Within lb hb b) (hlo : ExactInt lo) (hhi : ExactInt hi)
    (h1 : lo ≤ la - hb) (h2 : ha - lb ≤ hi) : Within lo hi (sub a b) := by
  obtain ⟨n, x, hx, hxlo, hxhi⟩ := h
  obtain ⟨m, y, hy, hylo, hyhi⟩ := h'
  have h1 := mul_le_mul_of_nonneg_right h1 (Int.natCast_nonneg one1074)
  have h2 := mul_le_mul_of_nonneg_right h2 (Int.natCast_nonneg one1074)
  rw [sub_mul] at h1 h2
  exact within_of_key hlo hhi (key_sub hx hy) (by omega) (by omega)

/-- A difference is finite only with finite operands. -/
theorem exists_fin_of_sub_fin {n : Bool} {x : Nat} (h : unpack (Fp.sub a b) = .fin n x) :
    ∃ k y m z, unpack a = .fin k y ∧ unpack b = .fin m z := by
  unfold Fp.sub at h
  cases ha : unpack a <;> cases hb : unpack b <;> rw [ha, hb] at h
  case fin.fin k y m z => exact ⟨k, y, m, z, rfl, rfl⟩
  case inf.inf k m =>
    simp only [Value.negate, addValue] at h
    split at h <;> simp [unpack_signed_inf, unpack_quietNan] at h
  all_goals simp [Value.negate, addValue, unpack_signed_inf, unpack_quietNan] at h

/-- The exact difference lies within one of the bounds of the rounded one. -/
theorem Within.of_sub (h : Within lo hi (Fp.sub a b)) (hlo : ExactInt (lo - 1)) (hhi : ExactInt (hi + 1)) :
    ∃ k y m z, unpack a = .fin k y ∧ unpack b = .fin m z ∧ (lo - 1) * one1074 ≤ units k y - units m z ∧
      units k y - units m z ≤ (hi + 1) * one1074 := by
  obtain ⟨n, x, hx, hxlo, hxhi⟩ := h
  obtain ⟨k, y, m, z, hy, hz⟩ := exists_fin_of_sub_fin hx
  have hkey := (key_of_fin hx).symm.trans (key_sub hy hz)
  rw [Option.some.injEq] at hkey
  have hpos := one1074_pos
  refine ⟨k, y, m, z, hy, hz, ?_, ?_⟩
  · by_contra hlt
    have := roundedUnits_mono (not_le.mp hlt).le
    rw [hlo.roundedUnits_eq, sub_mul] at this
    omega
  · by_contra hlt
    have := roundedUnits_mono (not_le.mp hlt).le
    rw [hhi.roundedUnits_eq, add_mul] at this
    omega

theorem Within.left_of_sub (h : Within lo hi (Fp.sub a b)) (h' : Within lb hb b) (hlo : ExactInt (lo - 1))
    (hhi : ExactInt (hi + 1)) : Within (lo - 1 + lb) (hi + 1 + hb) a := by
  obtain ⟨k, y, m, z, hy, hz, h1, h2⟩ := h.of_sub hlo hhi
  obtain ⟨m', z', hz', h3, h4⟩ := h'
  cases hz.symm.trans hz'
  refine ⟨k, y, hy, ?_, ?_⟩
  · rw [add_mul]
    omega
  · rw [add_mul (hi + 1)]
    omega

theorem Within.right_of_sub (h : Within lo hi (Fp.sub a b)) (h' : Within la ha a) (hlo : ExactInt (lo - 1))
    (hhi : ExactInt (hi + 1)) : Within (la - (hi + 1)) (ha - (lo - 1)) b := by
  obtain ⟨k, y, m, z, hy, hz, h1, h2⟩ := h.of_sub hlo hhi
  obtain ⟨m', z', hz', h3, h4⟩ := h'
  cases hy.symm.trans hz'
  refine ⟨m, z, hz, ?_, ?_⟩
  · rw [sub_mul]
    omega
  · rw [sub_mul ha]
    omega

/-- What lies in a window lies between its ends. -/
theorem within_of_le_fabs {w : Binary64} {k : Int} (hw : unpack w = unpack (ofInt k)) (hk : ExactInt k)
    (h : le (fabs a) w = true) : Within (-k) k a := by
  obtain ⟨m, y, hy, hyk⟩ := hk
  rw [← hw] at hy
  obtain ⟨n, x, hx⟩ := exists_fin_of_fabs_le (isFinite_iff.mpr ⟨m, y, hy⟩) h
  obtain ⟨h1, h2⟩ := abs_le.mp ((le_fabs_iff (key_of_fin hx) (key_of_fin hy)).mp h)
  exact ⟨n, x, hx, by rw [neg_mul]; omega, by omega⟩

/-- What lies beyond the end of a window does not lie in it. -/
theorem not_le_fabs_of_within {w : Binary64} {k : Int} (hw : unpack w = unpack (ofInt k)) (hk : ExactInt k)
    (h : Within lo hi a) (hlo : k < lo) : ¬le (fabs a) w = true := by
  intro hle
  obtain ⟨n, x, hx, -, h2⟩ := within_of_le_fabs hw hk hle
  obtain ⟨n', x', hx', h1, -⟩ := h
  cases hx.symm.trans hx'
  have := mul_lt_mul_of_pos_right hlo (Int.natCast_pos.mpr one1074_pos)
  omega

end

end Sys2Proof.Fp

namespace Sys2Proof.Machine

open Sys2Proof.Spec

/-- Half of the default period is 18.75 samples. -/
theorem within_half_period : Fp.Within 18 19 (Fp.div period Fp.two) :=
  ⟨false, 75 * (Fp.one1074 / 4), by decide +kernel, by decide +kernel, by decide +kernel⟩

theorem exactInt_eps : Fp.ExactInt 5 := Fp.exactInt_of_natAbs_le (by decide)

theorem unpack_eps : Fp.unpack eps = Fp.unpack (Fp.ofInt 5) := by decide +kernel

/-- Bounds above every error that an exact index can have. -/
theorem exactInt_two_pow : Fp.ExactInt (2 ^ 54) ∧ Fp.ExactInt (2 ^ 55) := by
  have h54 : Fp.unpack (Fp.ofInt (2 ^ 54)) = .fin false (2 ^ 54 * Fp.one1074) := by decide +kernel
  have h55 : Fp.unpack (Fp.ofInt (2 ^ 55)) = .fin false (2 ^ 55 * Fp.one1074) := by decide +kernel
  exact ⟨⟨_, _, h54, by simp [Fp.units]⟩, ⟨_, _, h55, by simp [Fp.units]⟩⟩

section
variable {s t u : State}

/-- A late transition comes 11 to 26 samples after the prediction. -/
theorem next_within_of_late (hd : s.d = period) (hidx : s.inSampleCount.toNat < 2 ^ 53) (hl : Late eps s) :
    Fp.Within (s.inSampleCount.toNat - 26) (s.inSampleCount.toNat - 11) s.next := by
  have hexact {k : Int} (h : k.natAbs ≤ 2 ^ 53) := Fp.exactInt_of_natAbs_le h
  rw [Late, half, hd] at hl
  have hdiff : Fp.Within (-5) 5 (Fp.sub (err s) (Fp.div period Fp.two)) :=
    Fp.within_of_le_fabs unpack_eps exactInt_eps hl
  have herr : Fp.Within 12 25 (err s) := hdiff.left_of_sub within_half_period (hexact (by decide)) (hexact (by decide))
  have hindex : Fp.Within s.inSampleCount.toNat s.inSampleCount.toNat (index s) := (hexact (by omega)).within
  exact herr.right_of_sub hindex (hexact (by decide)) (hexact (by decide))

/-- Half a period back, the prediction lies 29 samples or more before the late transition (R136). -/
theorem next_within_of_correct (hd : s.d = period) (hidx : s.inSampleCount.toNat < 2 ^ 53) (hl : Late eps s)
    (hnext : u.next = Fp.sub s.next (half s)) :
    Fp.Within (s.inSampleCount.toNat - 45) (s.inSampleCount.toNat - 29) u.next := by
  have hexact {k : Int} (h : k.natAbs ≤ 2 ^ 53) := Fp.exactInt_of_natAbs_le h
  rw [hnext, half, hd]
  exact (next_within_of_late hd hidx hl).sub within_half_period (hexact (by omega)) (hexact (by omega)) (by omega)
    (by omega)

/-- A later transition lies beyond every window of that prediction (R152). -/
theorem no_window_of_next_within {k : Int} (hd : u.d = period) (hk : 0 ≤ k) (hidx : k < u.inSampleCount.toNat)
    (hexactIdx : u.inSampleCount.toNat < 2 ^ 53) (hnext : Fp.Within (k - 45) (k - 29) u.next) :
    ¬Mid eps u ∧ ¬Late eps u ∧ ¬Cen eps u := by
  have hexact {k : Int} (h : k.natAbs ≤ 2 ^ 53) := Fp.exactInt_of_natAbs_le h
  obtain ⟨h54, h55⟩ := exactInt_two_pow
  have hindex : Fp.Within u.inSampleCount.toNat u.inSampleCount.toNat (index u) := (hexact (by omega)).within
  have herr : Fp.Within 30 (2 ^ 54) (err u) := hindex.sub hnext (hexact (by decide)) h54 (by omega) (by omega)
  have hmid : Fp.Within 48 (2 ^ 55) (Fp.add (err u) (half u)) := by
    rw [half, hd]
    exact herr.add within_half_period (hexact (by decide)) h55 (by omega) (by omega)
  have hlate : Fp.Within 11 (2 ^ 54) (Fp.sub (err u) (half u)) := by
    rw [half, hd]
    exact herr.sub within_half_period (hexact (by decide)) h54 (by omega) (by omega)
  exact ⟨Fp.not_le_fabs_of_within unpack_eps exactInt_eps hmid (by decide),
    Fp.not_le_fabs_of_within unpack_eps exactInt_eps hlate (by decide),
    Fp.not_le_fabs_of_within unpack_eps exactInt_eps herr (by decide)⟩

end

/-- A CORRECT comes from a late transition, keeps the period and moves the prediction back by half of it (R136). -/
theorem late_of_correct {p : Build} {x : Sample} {s : State} {r : Response} (hp : s.phase = .firstTransition)
    (hr : (smpFor p x s).out = some r) (hsev : r.sev = .correct) :
    Late p.params.eps s ∧ (smpFor p x s).d = s.d ∧ (smpFor p x s).next = Fp.sub s.next (half s) := by
  have other {e phase d next} (h : ClockAfter r (smpFor p x s) e phase d next) : e = .correct := h.1.symm.trans hsev
  by_cases hchange : SignChange s.lastSample x
  case neg => cases other (clockAfter_quiet hr hchange)
  have ht := (transition_iff_signChange _ _).mpr hchange
  by_cases hm : Mid p.params.eps s
  · cases other (clockAfter_half hr ht (by simp [hp]) hm)
  by_cases hl : Late p.params.eps s
  · obtain ⟨-, -, hd, hnext⟩ := clockAfter_correct hr ht hp hm hl
    exact ⟨hl, hd, hnext⟩
  by_cases hc : Cen p.params.eps s
  · cases other (clockAfter_acquire hr ht hp hm hl hc)
  · cases other (clockAfter_acqFail hr ht hp hm hl hc)

/-- Settles O41: the CORRECT bounds the prediction (`next_within_of_correct`), and no window is left for the transition
after it (`no_window_of_next_within`). -/
theorem acqFailFollowsCorrect : Obligations.AcqFailFollowsCorrect := by
  intro s t u x y g k r hp hd hstep hr hsev hup hud hunext hlt hidx hchange
  rw [exec_smp] at hstep
  cases hstep
  obtain ⟨hl, htd, htnext⟩ := late_of_correct hp hr hsev
  have hnext := next_within_of_correct hd (hlt.trans hidx) hl (hunext.trans htnext)
  obtain ⟨hm', hl', hc'⟩ :=
    no_window_of_next_within (hud.trans (htd.trans hd)) (by omega) (by exact_mod_cast hlt) hidx hnext
  obtain ⟨r', hr', -⟩ := performFor_out standardBuild (.smp y k) u
  obtain ⟨hsev', hphase', -⟩ := clockAfter_acqFail hr' ((transition_iff_signChange _ _).mpr hchange) hup hm' hl' hc'
  exact ⟨_, r', exec_smp y k u, hr', hsev', hphase'⟩

end Sys2Proof.Machine
end

section
/-!
PROOFS. When the framer acts and when it does not (43_framer.md R166, R167, R171, R173): its fields change only on BIT
and LOST, a short accumulator opens no frame, and the last tail bit completes the frame in the buffer.
-/

namespace Sys2Proof.Machine

open Sys2Proof.Spec

/-! Without a framer event. -/

/-- Every field of the framer but the accumulator has an event of its own for each write (R30 to R33). -/
theorem FrameWrites.keepsFrame {s t : State} (h : FrameWrites s t .none) : KeepsFrame s t where
  fphase := by_contra fun hne => by simpa using h.header (.inl hne)
  buf := by_contra fun hne => by simpa using h.buf hne
  blen := by_contra fun hne => by simpa using h.header (.inr hne)
  wcur := by_contra fun hne => by simpa using h.cursor (.inr hne)
  rem := by_contra fun hne => by simpa using h.cursor (.inl hne)
  frameTsBlock := by_contra fun hne => by simpa using h.latch (.inl hne)
  frameTsOff := by_contra fun hne => by simpa using h.latch (.inr hne)

/-- Settles O32: without BIT and LOST the response has no framer event (R88, `performFor_legalResponse`), and without an
event nothing is written (`performFor_writes`). -/
theorem framerChangesOnlyOnBitAndLost : Obligations.FramerChangesOnlyOnBitAndLost := by
  intro p i s r hr hbit hlost t
  obtain ⟨clock, frame⟩ := performFor_writes i hr
  have hacc : t.acc = s.acc := by_contra fun hne => (clock.acc hne).elim hbit hlost
  have hquiet : r.fev = .none := (performFor_legalResponse hr).events.quiet.mpr ⟨hbit, hlost⟩
  rw [hquiet] at frame
  obtain ⟨hfphase, hbuf, hblen, hwcur, hrem, hblock, hoff⟩ := frame.keepsFrame
  exact ⟨hacc, hfphase, hbuf, hblen, hwcur, hrem, hblock, hoff⟩

/-! With a short accumulator. -/

/-- The model's shift is the library's, whose bounds are known. -/
theorem shiftIn_eq_shiftConcat (acc : Word64) (b : Bool) : shiftIn acc b = acc.shiftConcat b := by
  ext i hi
  cases i with
  | zero => simp [shiftIn]
  | succ i => simp [shiftIn]

/-- A length of 8 or more has its top bit at bit 59 of the accumulator (R162). -/
theorem lengthField_lt_eight {acc : Word64} (h : acc.toNat < 2 ^ 59) : (lengthField acc).toNat < 8 := by
  rw [lengthField, BitVec.extractLsb_toNat, Nat.shiftRight_eq_div_pow]
  omega

/-- Before bit 59 is reached a bit is shifted in, or completes a tag that is rejected, whatever the tag (R163, R165). -/
theorem framerBit_shift_or_reject (p : Build) (b : Bool) (off : Word64) {w : Work} (hf : w.st.fphase = .awaitTag)
    (hacc : (shiftIn w.st.acc b).toNat < 2 ^ 59) :
    framerBit p b off w = shiftOnly (shifted b w) ∨ framerBit p b off w = tagReject (shifted b w) := by
  rw [framerBit_awaitTag p b off w hf]
  rcases awaitTag_cases p off (shifted b w) with ⟨-, h⟩ | ⟨-, -, h⟩ | ⟨-, hlen, -⟩
  · exact .inl h
  · exact .inr h
  · exact absurd hlen (lengthField_lt_eight hacc).not_ge

/-- By induction on the bits, each of which makes the accumulator at most one bit longer. -/
theorem feedBits_keeps_awaiting (p : Build) (off : Word64) {n : Nat} (bits : List Bool) {w : Work}
    (hf : w.st.fphase = .awaitTag) (hacc : w.st.acc.toNat < 2 ^ n) (hlen : n + bits.length ≤ 59) :
    (feedBits p off bits w).st.fphase = .awaitTag ∧ (feedBits p off bits w).st.blen = w.st.blen := by
  induction bits generalizing n w with
  | nil => exact ⟨hf, rfl⟩
  | cons b bits ih =>
    rw [List.length_cons] at hlen
    have hshift : (shiftIn w.st.acc b).toNat < 2 ^ (n + 1) :=
      shiftIn_eq_shiftConcat w.st.acc b ▸ BitVec.toNat_shiftConcat_lt_of_lt (by omega) hacc
    have hshort : (shiftIn w.st.acc b).toNat < 2 ^ 59 := hshift.trans_le (Nat.pow_le_pow_right two_pos (by omega))
    rw [feedBits_cons]
    rcases framerBit_shift_or_reject p b off hf hshort with h | h <;> rw [h]
    · exact ih (w := shiftOnly (shifted b w)) hf hshift (by omega)
    · exact ih (w := tagReject (shifted b w)) hf hshift (by omega)

/-- Settles O45: a cleared accumulator has length 0, and 59 bits leave bit 59 clear (`feedBits_keeps_awaiting`). -/
theorem noFrameOpensWithinSixtyBits : Obligations.NoFrameOpensWithinSixtyBits := by
  intro p w off bits hacc hf hlen
  have hzero : w.st.acc.toNat < 2 ^ 0 := by rw [hacc]; decide
  exact feedBits_keeps_awaiting p off bits hf hzero (by omega)

/-! On the last tail bit. -/

/-- Within the buffer no free byte is read. -/
theorem bytesBelow_eq_take (b : FrameBuffer) {n : Nat} (h : n ≤ maxFrame) : bytesBelow b n = b.toList.take n := by
  refine List.ext_getElem (by simpa [bytesBelow] using h) fun i hi _ => ?_
  have hlt : i < n := by simpa [bytesBelow] using hi
  simp [bytesBelow, loadByte_inside b i (hlt.trans_le h)]

/-- DONE_OK or DONE_FAIL, with ANY buffer that the append gives and ANY frame in it (R166, R167, R191, R200). -/
theorem closeStep_consumeTail_last {x : Sample} {s : State} {d next : Binary64} {acc : Word64} {bit : Bool}
    {buf : FrameBuffer} {bytes : List Byte} (hone : s.rem = 1)
    (hbuf : storeByte s.buf s.wcur (acc.extractLsb 7 0) = buf) (hbytes : bytesBelow buf s.blen.toNat = bytes) :
    closeStep (sampleTaken x (consumeTail (bitTakenWork s d next acc bit))) =
      sampled x
        (if crc16 bytes = 0 then
          { answerOfBit bit s with
            fev := .doneOk
            descValid := true
            descLen := s.blen
            descData := descLanes bytes
            tsBlock := s.frameTsBlock
            tsOff := s.frameTsOff
            fphase := .awaitTag }
        else { answerOfBit bit s with fev := .doneFail, crc := crc16 bytes, fphase := .awaitTag })
        { afterBit d next acc s with rem := 0, buf := buf, fphase := .awaitTag, blen := 0, wcur := 0 } := by
  have hframe : frameBytes (appended (bitTakenWork s d next acc bit)).st = bytes := by
    rw [← hbytes, ← hbuf]
    rfl
  have hrem : s.rem - 1 = 0 := by rw [hone]; rfl
  have hcases := complete_cases (appended (bitTakenWork s d next acc bit))
  rw [hframe] at hcases
  rw [consumeTail_last _ hone]
  rcases hcases with ⟨h0, h⟩ | ⟨hne, h⟩
  · rw [h, if_pos h0, h0, ← hframe, ← hbuf, ← hrem]
    rfl
  · rw [h, if_neg hne, ← hbuf, ← hrem]
    rfl

/-- Settles O25: the invariant keeps the cursor and the frame inside the buffer (`storeByte_getElem`,
`bytesBelow_eq_take`), and the frame completes (`closeStep_consumeTail_last`). -/
theorem lastTailBitCompletesFrame : Obligations.LastTailBitCompletesFrame := by
  intro s x g h hf hone hinv
  obtain ⟨-, hsize⟩ := hinv.sizes hf
  obtain ⟨-, hcursor⟩ := hinv.cursor hf
  refine ⟨storeByte s.buf s.wcur ((shiftedAcc x s).extractLsb 7 0), storeByte_getElem _ _ _ (by omega), ?_⟩
  rw [exec_bit_consumeTail g h hf, workOfBit, closeStep_consumeTail_last hone rfl (bytesBelow_eq_take _ hsize),
    bitTaken_eq_afterBit, bitAnswer_eq_answerOfBit]

end Sys2Proof.Machine
end

section
/-!
PROOFS. The CRC (44_crc.md): a turn of its register is linear and loses nothing, so that the byte-wise register is the
bit-serial one (R190), the residue is 0 exactly behind the record's own CRC (R192), and no single bit flip goes unseen
(R193).
-/

namespace Sys2Proof.Machine

open Sys2Proof.Spec

/-! One turn of the register. -/

theorem crcShift_eq_xor (r : BitVec 16) : crcShift r = (r <<< 1) ^^^ (if r.msb then 0x1021 else 0) := by
  unfold crcShift
  split <;> simp

theorem crcShift_xor (r s : BitVec 16) : crcShift (r ^^^ s) = crcShift r ^^^ crcShift s := by
  have hpoly : (if r.msb ^^ s.msb then 0x1021 else 0 : BitVec 16) =
      (if r.msb then 0x1021 else 0) ^^^ (if s.msb then 0x1021 else 0) := by
    cases r.msb <;> cases s.msb <;> rfl
  rw [crcShift_eq_xor, crcShift_eq_xor, crcShift_eq_xor, BitVec.shiftLeft_xor_distrib, BitVec.msb_xor, hpoly]
  ac_rfl

/-- A bit-serial turn is a turn without the bit, and the polynomial where the bit is 1. -/
theorem crcSerial_eq_crcShift_xor (r : BitVec 16) (b : Bool) :
    crcSerial r b = crcShift r ^^^ (if b then 0x1021 else 0) := by
  rw [crcSerial, crcShift_eq_xor]
  cases r.msb <;> cases b <;> simp

/-- A turn of the register with a message added is a bit-serial turn by the message's top bit, with the rest of the
message moved up. -/
theorem crcShift_xor_message (r x : BitVec 16) : crcShift (r ^^^ x) = crcSerial r x.msb ^^^ (x <<< 1) := by
  rw [crcShift_xor, crcSerial_eq_crcShift_xor, crcShift_eq_xor x]
  ac_rfl

/-- The polynomial's lowest bit shows whether the turn added it, so only 0 turns into 0. -/
theorem crcShift_eq_zero {r : BitVec 16} (h : crcShift r = 0#16) : r = 0#16 := by
  unfold crcShift at h
  split at h
  case isTrue hmsb =>
    have hlow := congrArg (·.getLsbD 0) h
    simp at hlow
  case isFalse hmsb =>
    simp only [BitVec.msb_eq_decide, decide_eq_true_eq] at hmsb
    bv_omega

/-! Several turns of the register. -/

theorem repeat_crcShift_xor (n : Nat) (r s : BitVec 16) :
    Nat.repeat crcShift n (r ^^^ s) = Nat.repeat crcShift n r ^^^ Nat.repeat crcShift n s := by
  induction n with
  | zero => rfl
  | succ n ih => simp only [Nat.repeat, ih, crcShift_xor]

theorem repeat_crcShift_eq_zero_iff (n : Nat) (r : BitVec 16) : Nat.repeat crcShift n r = 0#16 ↔ r = 0#16 := by
  induction n with
  | zero => rfl
  | succ n ih => exact ⟨fun h => ih.mp (crcShift_eq_zero h), fun h => by rw [Nat.repeat, ih.mpr h]; rfl⟩

theorem repeat_crcShift_inj {n : Nat} {r s : BitVec 16} :
    Nat.repeat crcShift n r = Nat.repeat crcShift n s ↔ r = s := by
  rw [← BitVec.xor_eq_zero_iff, ← repeat_crcShift_xor, repeat_crcShift_eq_zero_iff, BitVec.xor_eq_zero_iff]

/-- `n` turns with a message added take in its top `n` bits serially and move the rest up. -/
theorem repeat_crcShift_xor_message (n : Nat) (r x : BitVec 16) :
    Nat.repeat crcShift n (r ^^^ x) = ((List.range n).map x.getMsbD).foldl crcSerial r ^^^ (x <<< n) := by
  induction n with
  | zero => simp [Nat.repeat]
  | succ n ih =>
    have hbit : (x <<< n).msb = x.getMsbD n := by simp [BitVec.msb]
    rw [Nat.repeat, ih, crcShift_xor_message, hbit, ← BitVec.shiftLeft_add, List.range_succ, List.map_append,
      List.foldl_append, List.map_singleton, List.foldl_cons, List.foldl_nil]

/-! One byte, and two. -/

/-- A byte is folded in as its bits are, most significant first. -/
theorem crcByte_eq_foldl_crcSerial (r : BitVec 16) (v : Byte) : crcByte r v = (byteBits v).foldl crcSerial r := by
  have hbits : (List.range 8).map (v.setWidth 16 <<< 8).getMsbD = byteBits v :=
    List.map_congr_left fun k _ => by simp [BitVec.getMsbD_setWidth]
  have hrest : v.setWidth 16 <<< 8 <<< 8 = 0#16 := by
    rw [← BitVec.shiftLeft_add, BitVec.shiftLeft_eq_zero le_rfl]
  rw [crcByte, repeat_crcShift_xor_message, hbits, hrest, BitVec.xor_zero]

theorem byteBits_append_byteBits (a b : Byte) : byteBits a ++ byteBits b = (List.range 16).map (a ++ b).getMsbD := by
  rw [byteBits, byteBits, List.range_add (n := 8) (m := 8), List.map_append, List.map_map]
  congr 1 <;> refine List.map_congr_left fun k hk => ?_
  · have hk : k < 8 := List.mem_range.mp hk
    exact (BitVec.getMsbD_append.trans (if_neg (by omega))).symm
  · exact (BitVec.getMsbD_append.trans (by simp)).symm

/-- Two bytes are sixteen turns with both added at once, the first in the high byte. -/
theorem crcByte_crcByte (r : BitVec 16) (a b : Byte) :
    crcByte (crcByte r a) b = Nat.repeat crcShift 16 (r ^^^ (a ++ b)) := by
  rw [crcByte_eq_foldl_crcSerial, crcByte_eq_foldl_crcSerial, ← List.foldl_append, byteBits_append_byteBits,
    repeat_crcShift_xor_message, BitVec.shiftLeft_eq_zero le_rfl, BitVec.xor_zero]

theorem crcByte_xor (r s : BitVec 16) (a b : Byte) : crcByte (r ^^^ s) (a ^^^ b) = crcByte r a ^^^ crcByte s b := by
  rw [crcByte, crcByte, crcByte, ← repeat_crcShift_xor, BitVec.setWidth_xor, BitVec.shiftLeft_xor_distrib]
  congr 1
  ac_rfl

theorem crcByte_left_injective (v : Byte) : Function.Injective (crcByte · v) :=
  fun _ _ h => (BitVec.xor_left_inj _).mp (repeat_crcShift_inj.mp h)

theorem crcByte_right_injective (r : BitVec 16) : Function.Injective (crcByte r) := by
  intro a b h
  have hshifted : a.setWidth 16 <<< 8 = b.setWidth 16 <<< 8 := by simpa using repeat_crcShift_inj.mp h
  bv_omega

/-- A 16-bit word is two bytes one after the other when they are its high and its low byte. -/
theorem eq_append_iff_extractLsb' {r : BitVec 16} {a b : Byte} :
    r = a ++ b ↔ a = r.extractLsb' 8 8 ∧ b = r.extractLsb' 0 8 := by
  constructor
  · rintro rfl
    exact ⟨BitVec.extractLsb'_append_eq_left.symm, BitVec.extractLsb'_append_eq_right.symm⟩
  · rintro ⟨rfl, rfl⟩
    have hjoin := BitVec.extractLsb'_append_extractLsb'_eq_extractLsb' (x := r) (len₂ := 8) (Nat.zero_add 8).symm
    exact (hjoin.trans BitVec.extractLsb'_eq_self).symm

/-! Whole records. -/

theorem foldl_crcByte_eq_foldl_crcSerial (bytes : List Byte) (r : BitVec 16) :
    bytes.foldl crcByte r = (recordBits bytes).foldl crcSerial r := by
  induction bytes generalizing r with
  | nil => rfl
  | cons v bytes ih => rw [List.foldl_cons, recordBits_cons, List.foldl_append, ih, crcByte_eq_foldl_crcSerial]

theorem foldl_crcByte_injective (bytes : List Byte) : Function.Injective (bytes.foldl crcByte ·) := by
  induction bytes with
  | nil => exact Function.injective_id
  | cons v bytes ih => exact ih.comp (crcByte_left_injective v)

/-- The register is linear in its initial value and the record together. -/
theorem foldl_crcByte_zipWith_xor {m f : List Byte} (hlen : m.length = f.length) (r s : BitVec 16) :
    (List.zipWith (fun a b => a ^^^ b) m f).foldl crcByte (r ^^^ s) = m.foldl crcByte r ^^^ f.foldl crcByte s := by
  induction m generalizing f r s with
  | nil => rw [List.length_eq_zero_iff.mp hlen.symm]; rfl
  | cons a m ih =>
    cases f with
    | nil => cases hlen
    | cons b f =>
      rw [List.zipWith_cons_cons, List.foldl_cons, List.foldl_cons, List.foldl_cons, crcByte_xor,
        ih (Nat.succ.inj hlen)]

/-- Changing one byte of a record changes its CRC. -/
theorem crc16_set_ne {m : List Byte} {i : Nat} (h : i < m.length) {v : Byte} (hv : v ≠ m[i]) :
    crc16 (m.set i v) ≠ crc16 m := by
  intro heq
  rw [List.set_eq_take_append_cons_drop, if_pos h] at heq
  conv_rhs at heq => rw [← List.take_append_drop i m, List.drop_eq_getElem_cons h]
  simp only [crc16, List.foldl_append, List.foldl_cons] at heq
  exact hv (crcByte_right_injective _ (foldl_crcByte_injective _ heq))

/-! The obligations. -/

/-- Settles O46 byte by byte (`crcByte_eq_foldl_crcSerial`). -/
theorem crcIsBitSerial : Obligations.CrcIsBitSerial := fun bytes => foldl_crcByte_eq_foldl_crcSerial bytes _

/-- Settles O47: the two bytes make sixteen turns, which end in 0 only from 0 (`repeat_crcShift_eq_zero_iff`), so the
register before them is the two bytes. -/
theorem residueIsZeroExactlyWithItsCrc : Obligations.ResidueIsZeroExactlyWithItsCrc := by
  intro m a b
  have hturns : crc16 (m ++ [a, b]) = Nat.repeat crcShift 16 (crc16 m ^^^ (a ++ b)) := by
    rw [crc16, List.foldl_append]
    exact crcByte_crcByte _ a b
  rw [hturns]
  exact (repeat_crcShift_eq_zero_iff _ _).trans (BitVec.xor_eq_zero_iff.trans eq_append_iff_extractLsb')

/-- Settles O48: linearity (`foldl_crcByte_zipWith_xor`), and a flipped bit makes another byte (`crc16_set_ne`). -/
theorem crcDetectsEverySingleBitFlip : Obligations.CrcDetectsEverySingleBitFlip := by
  refine ⟨fun m f hlen => ?_, fun m i h k hk => crc16_set_ne h ?_⟩
  · simpa [crc16] using foldl_crcByte_zipWith_xor hlen 0x1D0F 0
  · have hbit : 1#8 <<< k ≠ 0#8 := fun hzero => by
      simpa [hk] using congrArg (·.getLsbD k) hzero
    simpa using hbit

end Sys2Proof.Machine
end

section
/-!
PROOFS. The statements about exceptions (60_exceptions.md): the block never traps (R210, R215), an idle step holds its
state (R223), and after a LOST and the SEED that follows it nothing of the past is left but the counters and the block
fields (R213).
-/

namespace Sys2Proof.Machine

open Sys2Proof.Spec

/-- Settles O7: a step is always the next state that `stepFor` gives. -/
theorem noStepTraps : Obligations.NoStepTraps := fun s => ⟨stepFor standardBuild s, step_eq_stepFor s⟩

/-! Idle steps. -/

/-- With nothing on the input a step is an idle step (R223). -/
theorem step_idle {s : State} (h : s.pending = []) : step s = .next (idleStep s) := by
  simp only [step, takeInput, h]

/-- Settles O6, by induction on the number of further steps: the first is idle, and the others find an empty port. -/
theorem idleStepsHoldTheState : Obligations.IdleStepsHoldTheState := by
  intro n
  induction n with
  | zero => exact fun s h => (run_next 0 (step_idle h)).trans (run_zero _)
  | succ n ih => exact fun s h => (run_next (n + 1) (step_idle h)).trans (ih (idleStep s) h)

/-! What a loss of sync forgets. -/

/-- The state `s` with the buffer bytes and the latch of `c`, which stay until the next frame opens (R164, R170). -/
def withStaleFrame (c s : State) : State :=
  { s with buf := c.buf, frameTsBlock := c.frameTsBlock, frameTsOff := c.frameTsOff }

/-- The state `s` with what `c` holds in all the fields that no LOST clears: the stale frame, and the period and the
prediction, which stay until the next SEED (R133, R142, R170). -/
def withPast (c s : State) : State :=
  { withStaleFrame c s with d := c.d, next := c.next }

/-- A LOST leaves the same in two states that agree on the index, the block fields and the input, but for the fields
that it does not clear (R142, R170). -/
theorem lost_eq_withPast (x : Sample) {s t : State} (hidx : s.inSampleCount = t.inSampleCount)
    (hts : s.blockTs = t.blockTs) (hoff : s.blockOffset = t.blockOffset) (hin : s.pending = t.pending) :
    closeStep (sampleTaken x (lost (openStep 0b00#2 t))) =
      withPast t (closeStep (sampleTaken x (lost (openStep 0b00#2 s)))) := by
  cases s
  cases t
  cases hidx
  cases hts
  cases hoff
  cases hin
  rfl

section
variable {p : Build} {x : Sample} {s : State}

/-- Only the LOST action answers with the event LOST (R142). -/
theorem SmpAction.eq_lost {v : Work} (h : SmpAction p x s v) (hsev : v.resp.sev = .lost) :
    v = Machine.lost (openStep 0b00#2 s) := by
  cases h with
  | lost => rfl
  | quiet | seed | half | correct | acquire | acqFail => cases hsev
  | bit => simp at hsev

/-- What a sample that loses sync leaves (R100, R142). -/
theorem smpFor_of_sev_lost {r : Response} (hr : (smpFor p x s).out = some r) (hsev : r.sev = .lost) :
    smpFor p x s = closeStep (sampleTaken x (lost (openStep 0b00#2 s))) := by
  obtain ⟨v, hv, h⟩ := smpFor_action p x s
  rw [h] at hr
  cases hr
  rw [h, hv.eq_lost hsev]

/-- The state waits for a transition that seeds, and its last sample has the sign of `x`. -/
structure Waiting (x : Sample) (s : State) : Prop where
  phase : s.phase = .unsynchronised
  sign : s.lastSample.toInt < 0 ↔ x.toInt < 0

theorem Waiting.signChange_iff (h : Waiting x s) (y : Sample) : SignChange s.lastSample y ↔ SignChange x y := by
  rw [SignChange, SignChange, h.sign]

/-- A command without a sign change neither ends the wait nor looks at the past (R100 to R102). -/
theorem Waiting.performFor_withPast (h : Waiting x s) {i : Instr} (hi : ∀ z k, i = .smp z k → ¬SignChange x z)
    (c : State) : Waiting x (performFor p i s) ∧ performFor p i (withPast c s) = withPast c (performFor p i s) := by
  cases i with
  | smp z k =>
    have hsame : ¬SignChange x z := hi z k rfl
    have hquiet : transition s.lastSample z = false := transition_eq_false (mt (h.signChange_iff z).mp hsame)
    simp only [performFor]
    rw [smpFor_quiet p z s hquiet, smpFor_quiet p z (withPast c s) hquiet]
    exact ⟨⟨h.phase, (not_not.mp hsame).symm⟩, rfl⟩
  | blk t | rsv2 v | rsv3 v => exact ⟨⟨h.phase, h.sign⟩, rfl⟩

/-- So does a list of them, by induction. -/
theorem Waiting.performAll_withPast (h : Waiting x s) {is : List Instr} (his : ∀ z k, .smp z k ∈ is → ¬SignChange x z)
    (c : State) : Waiting x (performAll p is s) ∧ performAll p is (withPast c s) = withPast c (performAll p is s) := by
  induction is generalizing s with
  | nil => exact ⟨h, rfl⟩
  | cons i is ih =>
    obtain ⟨hnext, hcommute⟩ := h.performFor_withPast (p := p) (fun z k hz => his z k (hz ▸ List.mem_cons_self)) c
    simp only [performAll, List.foldl_cons, hcommute]
    exact ih hnext fun z k hz => his z k (List.mem_cons_of_mem i hz)

/-- The transition that ends the wait seeds, and overwrites all of the past but the stale frame (R133). -/
theorem Waiting.smpFor_seeds (h : Waiting x s) {y : Sample} (hchange : SignChange x y) (c : State) :
    (∃ r, (smpFor p y s).out = some r ∧ r.sev = .seed) ∧
      smpFor p y (withPast c s) = withStaleFrame c (smpFor p y s) := by
  have ht : transition s.lastSample y = true :=
    (transition_iff_signChange _ _).mpr ((h.signChange_iff y).mpr hchange)
  rw [smpFor_seed p y s ht h.phase, smpFor_seed p y (withPast c s) ht h.phase]
  exact ⟨⟨_, rfl, rfl⟩, rfl⟩

end

/-- Settles O43: after the LOST the second state is the first with another past (`lost_eq_withPast`), it stays so while
both wait (`Waiting.performAll_withPast`), and the SEED leaves the stale frame alone of it (`Waiting.smpFor_seeds`). -/
theorem lossForgetsThePast : Obligations.LossForgetsThePast := by
  intro p s₁ s₂ x y g h between r₁ r₂ hidx hts hoff hin hr₁ hr₂ hlost₁ hlost₂ hbetween hchange run
  have hfirst : smpFor p x s₁ = closeStep (sampleTaken x (lost (openStep 0b00#2 s₁))) := smpFor_of_sev_lost hr₁ hlost₁
  have hsecond : smpFor p x s₂ = withPast s₂ (smpFor p x s₁) := by
    rw [smpFor_of_sev_lost hr₂ hlost₂, hfirst, lost_eq_withPast x hidx hts hoff hin]
  have hwait : Waiting x (smpFor p x s₁) := by
    rw [hfirst]
    exact ⟨rfl, Iff.rfl⟩
  obtain ⟨hwaited, hcommute⟩ := hwait.performAll_withPast (p := p) hbetween s₂
  obtain ⟨hseed, hforget⟩ := hwaited.smpFor_seeds (p := p) hchange s₂
  have hrun (s : State) : run s = smpFor p y (performAll p between (smpFor p x s)) := by
    simp only [run, performAll, List.foldl_cons, List.foldl_append, List.foldl_nil, performFor]
  have hstale : run s₂ = withStaleFrame s₂ (run s₁) := by
    rw [hrun, hrun, hsecond, hcommute, hforget]
  refine ⟨(hrun s₁).symm ▸ hseed, ?_⟩
  rw [hstale]
  rfl

end Sys2Proof.Machine
end
